-- ==== Sys2Proof/Word.lean ====
section
/-! DEFINITION. The machine's words: the bit-vector types of spec/00_scope.md R7 and R9. -/

namespace Sys2Proof

/-- A byte: a sensor register, a bitmask or a field value (R7: REG_BITS = MASK_BITS = 8). -/
abbrev Byte := BitVec 8

/-- A 32-bit word: a command word (R71), a wide block register (R23), a clock value (R8: CLOCK_BITS = 32). -/
abbrev Word := BitVec 32

/-- A sensor register address (R7: REG_ADDR_BITS = 6). -/
abbrev Addr := BitVec 6

/-- `zext_32` of R9. -/
abbrev zext32 {n : Nat} (v : BitVec n) : Word := v.setWidth 32

end Sys2Proof
end

