-- ==== Sys2Proof/Config.lean ====
section
/-! DEFINITION. What one instantiation of the block fixes: the three configuration inputs of the
DeviceHandle (spec/10_state.md R21), the parameters the spec leaves open (spec/00_scope.md R8, marked
OPEN in spec/92_eei_decisions.md), and the constants the spec fixes (R7, R8).
No number here is a free value: the answers of the ports, which the spec leaves free, are inputs and stand in
State (assumption log 1). -/

namespace Sys2Proof

/-- XPORT_SEL (R21): 0 = I2C variant, 1 = SPI variant of the transport. -/
inductive Xport where
  | i2c
  | spi
  deriving DecidableEq, Repr

/-- The configuration inputs (R21) and the open parameters (R8). They are arguments of the model: a claim about
every state is a claim about every configuration. -/
structure Config where
  /-- XPORT_SEL. -/
  xportSel : Xport
  /-- BUS_ADDR: the I2C sub-address, or the identifier of the SPI chip-select line. -/
  busAddr : Byte
  /-- IRQ_PIN: the identifier of the input pin that `Pin()` samples. -/
  irqPin : Byte
  /-- The one 2-bit value that is NOT in I2C_SUBADDR_OK: R91 makes the set exactly three of the four values. -/
  i2cRefused : BitVec 2
  /-- SPI_READ_FLAG (R69). -/
  spiReadFlag : Byte
  /-- TUNE_SETTLE_B_US (R132). -/
  tuneSettleB : Nat
  /-- TUNE_SETTLE_D_US (R132). -/
  tuneSettleD : Nat
  deriving DecidableEq, Repr

namespace Config

/-- The defaults of R8, in the configuration that spec/95_test_vectors.md starts from (XPORT_SEL = 0,
BUS_ADDR = 1); IRQ_PIN 0 is the model's own (assumption log 3).
DESIGN CHOICE, unsafe where a claim reads them: state claims over every `Config`. -/
def default : Config where
  xportSel := .i2c
  busAddr := 1
  irqPin := 0
  i2cRefused := 0
  spiReadFlag := 0x80
  tuneSettleB := 2000
  tuneSettleD := 2000

end Config

/-- WINDOW_MS (R7). -/
def windowMs : Nat := 100

/-- RCO_SETTLE_US (R7). -/
def rcoSettleUs : Nat := 2000

/-- STD_SETTLE_US (R8). -/
def stdSettleUs : Nat := 2000

/-- OSC_NOMINAL_HZ (R8, R126); a constant, since the bounds of R31 rest on it (assumption log 5). -/
def oscNominalHz : Nat := 500000

/-- TOL_PERMILLE (R7): 3.5 %. -/
def tolPermille : Nat := 35

/-- N_TUNE (R7): the number of antenna-tuning settings. -/
def nTune : Nat := 16

/-- DIRECT_CMD (R7): the sentinel byte that starts a device-internal action. -/
def directCmd : Byte := 0x96

/-- DIST_OUT_OF_RANGE (R7, R152). -/
def distOutOfRange : Byte := 0x3F

end Sys2Proof
end

