-- ==== Sys2Proof/Syntax.lean ====
section
/-! DEFINITION. The eight commands of spec/opcode_table.json (spec/30_encoding.md R73). Each operand has the
width of its field of format C (R71), so an operand that does not fit cannot be written. -/

namespace Sys2Proof

/-- The commands of the block, one constructor per row of the opcode table. -/
inductive Instr where
  /-- BEGIN (R90): check the transport configuration. -/
  | begin
  /-- MSHIFT m (R105): maskShift of the mask. -/
  | mshift (m : Byte)
  /-- RDF a, m (R106): read the field (a, m). -/
  | rdf (a : Addr) (m : Byte)
  /-- WRF a, m, v (R107): write v to the field (a, m). -/
  | wrf (a : Addr) (m : Byte) (v : Byte)
  /-- CALRCO (R121): calibrate the RC oscillators. -/
  | calrco
  /-- CALRES d (R130): tune the antenna at division-ratio code d. -/
  | calres (d : BitVec 2)
  /-- RSTDEF (R151): restore the sensor's preset defaults. -/
  | rstdef
  /-- RDENERGY (R150): read the 20-bit energy. -/
  | rdenergy
  deriving DecidableEq, Repr

end Sys2Proof
end

