-- ==== Sys2Proof/WellFormed.lean ====
section
/-! DEFINITION. When the five fields of a format-C word (spec/30_encoding.md R71), as plain numbers, make a
command: the operand widths of R71 and R78, and the three conditions of R75. An `Instr` cannot be ill-formed,
since its operands have their fields' widths; the checks are over the fields before they are put into one. -/

namespace Sys2Proof

/-- The fields of a format-C word as numbers, before any check (R71). -/
structure FormatC where
  op : Nat
  rsv : Nat
  addr : Nat
  mask : Nat
  val : Nat
  deriving DecidableEq, Repr

namespace FormatC

/-- R75, first condition: OP is one of 0x1 .. 0x8. -/
def opAssigned (f : FormatC) : Bool := 1 ≤ f.op && f.op ≤ 8

/-- R75, second condition: RSV is zero. -/
def rsvZero (f : FormatC) : Bool := f.rsv == 0

/-- ADDR is an operand of RDF and WRF (6 bits) and "must be 0" elsewhere (R73). -/
def addrFits (f : FormatC) : Bool := if f.op == 3 || f.op == 4 then f.addr < 64 else f.addr == 0

/-- MASK is an operand of MSHIFT, RDF and WRF (8 bits) and "must be 0" elsewhere (R73). -/
def maskFits (f : FormatC) : Bool :=
  if f.op == 2 || f.op == 3 || f.op == 4 then f.mask < 256 else f.mask == 0

/-- VAL is an operand of WRF (8 bits) and CALRES (VAL[1:0]) and "must be 0" elsewhere (R73). -/
def valFits (f : FormatC) : Bool :=
  if f.op == 4 then f.val < 256 else if f.op == 6 then f.val < 4 else f.val == 0

/-- The fields make one of the eight commands. -/
def wellFormed (f : FormatC) : Bool :=
  f.opAssigned && f.rsvZero && f.addrFits && f.maskFits && f.valFits

end FormatC

end Sys2Proof
end

