-- ==== Sys2Proof/Decode.lean ====
section
/-! DEFINITION. The decoder of spec/30_encoding.md R71 to R77, total on every 32-bit word, and the encoder
written from the same table. -/

namespace Sys2Proof

/-! ## The fields of format C (R71) -/

/-- OP, bits 31:28. -/
def opField (w : Word) : BitVec 4 := w.extractLsb' 28 4

/-- RSV, bits 27:22. -/
def rsvField (w : Word) : BitVec 6 := w.extractLsb' 22 6

/-- ADDR, bits 21:16. -/
def addrField (w : Word) : Addr := w.extractLsb' 16 6

/-- MASK, bits 15:8. -/
def maskField (w : Word) : Byte := w.extractLsb' 8 8

/-- VAL, bits 7:0. -/
def valField (w : Word) : Byte := w.extractLsb' 0 8

/-- DIV = VAL[1:0], the division-ratio code of CALRES (R72). -/
def divField (w : Word) : BitVec 2 := w.extractLsb' 0 2

/-- The five fields of a word as numbers. -/
def formatC (w : Word) : FormatC where
  op := (opField w).toNat
  rsv := (rsvField w).toNat
  addr := (addrField w).toNat
  mask := (maskField w).toNat
  val := (valField w).toNat

/-! ## The opcode map (R73) -/

/-- The mnemonic column of R73. -/
inductive Mnemonic where
  | BEGIN | MSHIFT | RDF | WRF | CALRCO | CALRES | RSTDEF | RDENERGY
  deriving DecidableEq, Repr

/-- One row of R73: the word w selects the row whose `(w & mask) == value` (the table's "match"). -/
structure OpRow where
  mnemonic : Mnemonic
  value : Word
  mask : Word
  deriving DecidableEq, Repr

def OpRow.selects (r : OpRow) (w : Word) : Bool := w &&& r.mask == r.value

/-- The opcode map (R73), row by row. -/
def opRows : List OpRow := [
  ⟨.BEGIN,    0x10000000, 0xFFFFFFFF⟩,
  ⟨.MSHIFT,   0x20000000, 0xFFFF00FF⟩,
  ⟨.RDF,      0x30000000, 0xFFC000FF⟩,
  ⟨.WRF,      0x40000000, 0xFFC00000⟩,
  ⟨.CALRCO,   0x50000000, 0xFFFFFFFF⟩,
  ⟨.CALRES,   0x60000000, 0xFFFFFFFC⟩,
  ⟨.RSTDEF,   0x70000000, 0xFFFFFFFF⟩,
  ⟨.RDENERGY, 0x80000000, 0xFFFFFFFF⟩]

/-- Operand assembly (R72): no field is extended, scaled or shifted. -/
def operands (k : Mnemonic) (w : Word) : Instr :=
  match k with
  | .BEGIN => .begin
  | .MSHIFT => .mshift (maskField w)
  | .RDF => .rdf (addrField w) (maskField w)
  | .WRF => .wrf (addrField w) (maskField w) (valField w)
  | .CALRCO => .calrco
  | .CALRES => .calres (divField w)
  | .RSTDEF => .rstdef
  | .RDENERGY => .rdenergy

/-- Why a word is ILLEGAL: the three conditions of R75. The block records none of it (R174). -/
inductive Illegal where
  /-- OP is 0x0 or 0x9..0xF. -/
  | reservedOpcode
  /-- RSV is non-zero. -/
  | reservedBits
  /-- A field that R73 marks "must be 0" is non-zero. -/
  | mustBeZero
  deriving DecidableEq, Repr

/-- The first condition of R75 that an ILLEGAL word meets. -/
def illegalReason (w : Word) : Illegal :=
  if !(formatC w).opAssigned then .reservedOpcode
  else if !(formatC w).rsvZero then .reservedBits
  else .mustBeZero

/-- Decode (R74): the command of the row that selects the word, or ILLEGAL by name. -/
def decode (w : Word) : Except Illegal Instr :=
  match opRows.find? (·.selects w) with
  | some r => .ok (operands r.mnemonic w)
  | none => .error (illegalReason w)

/-- Decode with the reason dropped. -/
def decode? (w : Word) : Option Instr := (decode w).toOption

/-! ## The encoder -/

/-- A format-C word from its fields, RSV zero (R71). -/
def packC (op : BitVec 4) (addr : Addr) (mask val : Byte) : Word :=
  op ++ (0#6 ++ (addr ++ (mask ++ val)))

/-- The word of a command (R73, R78). -/
def encode : Instr → Word
  | .begin => packC 0x1 0 0 0
  | .mshift m => packC 0x2 0 m 0
  | .rdf a m => packC 0x3 a m 0
  | .wrf a m v => packC 0x4 a m v
  | .calrco => packC 0x5 0 0 0
  | .calres d => packC 0x6 0 0 (d.setWidth 8)
  | .rstdef => packC 0x7 0 0 0
  | .rdenergy => packC 0x8 0 0 0

/-- A command is well formed when the fields of its word are. -/
def Instr.wellFormed (i : Instr) : Bool := (formatC (encode i)).wellFormed

/-- The command word the table's numbering gives: bit 0 the least significant, bits above `nbits` zero.
A command is one 32-bit word on the host port and has no byte order (R70, R77). -/
def commandWord (nbits w : Nat) : Word := BitVec.ofNat 32 (w % 2 ^ nbits)

/-- The command the decoder reads from the bits the opcode table numbers. -/
def decodeTableWord (nbits w : Nat) : Option Instr := decode? (commandWord nbits w)

end Sys2Proof
end

