-- ==== Sys2Proof/Machine/State.lean ====
section
/-! DEFINITION. The state of the block (spec/10_state.md R20 to R33), the inputs from outside it
(spec/20_memory.md R53, spec/60_exceptions.md R185 to R187, spec/70_reset_and_hazards.md R197, R206) and the
trace by which it is observed (R55). Plain data throughout. -/

namespace Sys2Proof.Machine

/-- What stops the machine with a fault: nothing. Every failure of the block ends a command with a status code
and the block goes on (R170, R182), so this type has no constructor. -/
inductive Fault where
  deriving DecidableEq, Repr

/-- What a step refuses. -/
inductive Refusal where
  /-- Raised by an arm of `exec` whose instruction has no meaning yet; no arm of this model does. Safe. -/
  | notModelled (mnemonic : String)
  deriving DecidableEq, Repr

/-! ## Outside the block: answers, waits, reset -/

/-- One draw of the environment: what each port answers if the block's next event is on it. An event uses the
parts of its own port and ignores the others (assumption log 1). -/
structure Draw where
  /-- The transport answers Ok (true) or Err (R53). -/
  ack : Bool
  /-- The byte of an `Ok` answer to a read (R53). -/
  byte : Byte
  /-- The answer of the clock port (R185). -/
  millis : Word
  /-- The level of each input pin; `Pin()` samples the pin IRQ_PIN (R187). -/
  pins : BitVec 256
  deriving DecidableEq, Repr

/-- What the outside does next. -/
inductive Input where
  /-- The port that the block's next event is on answers. -/
  | answer (d : Draw)
  /-- No port answers yet: the block waits in its blocking call (R62), and the host can look (R206). -/
  | wait
  /-- The reset input is asserted (R195). `reached` says whether a transaction that the reset cuts reached the
  sensor; R197 admits both. -/
  | reset (reached : Bool)
  deriving DecidableEq, Repr

/-- What answers the transport. -/
inductive Sensor where
  /-- The transport oracle of R53: every answer is free. -/
  | oracle
  /-- The simulator oracle of R54: the 64 bytes of SIM, as the cells that differ from 0x00 (assumption log 9). -/
  | sim (mem : List Host.Cell)
  deriving DecidableEq, Repr

/-- An event of the trace (R55). -/
inductive Event where
  /-- `Rd(a) = Ok(b)`, or `Rd(a) = Err` for `none`. -/
  | rd (a : Addr) (answer : Option Byte)
  /-- `Wr(a, b) = Ok`, or `= Err` for `false`. -/
  | wr (a : Addr) (b : Byte) (ok : Bool)
  /-- `Clk = t`. -/
  | clk (t : Word)
  /-- `Pin = l`. -/
  | pin (level : Bool)
  /-- `Dly(us)`. -/
  | dly (us : Nat)
  deriving DecidableEq, Repr

/-! ## PHASE (R32) -/

/-- Where a writeField stands (R102): before its read, or before its write with the byte it read. -/
inductive Rmw where
  | read
  | write (b : Byte)
  deriving DecidableEq, Repr

/-- Where CALRCO stands (R121). -/
inductive RcoPoint where
  /-- `checkPowered()`. -/
  | power
  /-- Step 1: the direct command to CALIB_RCO. -/
  | trigger (p : Rmw)
  /-- Step 2: DISP_SRCO <- 1. -/
  | showSrco (p : Rmw)
  /-- Step 3: the settle delay. -/
  | settle
  /-- Step 4: DISP_SRCO <- 0. -/
  | hideSrco (p : Rmw)
  /-- Step 5: the read of TRCO_NOK. -/
  | trco
  /-- Step 5: the read of SRCO_NOK; `t` is the TRCO_NOK value read. -/
  | srco (t : Byte)
  deriving DecidableEq, Repr

/-- Where CALRES stands (R130, R123). -/
inductive ResPoint where
  /-- `checkPowered()`. -/
  | power
  /-- Step 1: DIV_RATIO <- d. -/
  | div (p : Rmw)
  /-- Step a: TUNE_CAP <- i. -/
  | tune (p : Rmw)
  /-- Step b: the first settle delay. -/
  | settleB
  /-- Step c: DISP_LCO <- 1. -/
  | showLco (p : Rmw)
  /-- Step d: the second settle delay. -/
  | settleD
  /-- Step e: the window's first clock read. -/
  | windowStart
  /-- Step e: the reference sample. -/
  | windowRef
  /-- Step e: the clock read of the loop's test. -/
  | windowClock
  /-- Step e: the pin sample of the loop's body. -/
  | windowPin
  /-- Step f: DISP_LCO <- 0, and step g after it. -/
  | hideLco (p : Rmw)
  /-- Step 3: TUNE_CAP <- bestSetting, and step 4 after it. -/
  | best (p : Rmw)
  deriving DecidableEq, Repr

/-- Where RSTDEF stands (R151). -/
inductive PresetPoint where
  /-- The direct command to PRESET_DEFAULT. -/
  | trigger (p : Rmw)
  /-- The standard settle delay. -/
  | settle
  deriving DecidableEq, Repr

/-- Where RDENERGY stands (R150), with the fields read so far. -/
inductive EnergyPoint where
  | lsb
  | msb (lo : Byte)
  | mmsb (lo mi : Byte)
  deriving DecidableEq, Repr

/-- A command in execution: EXEC(op, j) of R32 as one type, together with the command's local values (R12).
BEGIN and MSHIFT perform no event and so are never found in execution. -/
inductive Running where
  | rdf (a : Addr) (m : Byte)
  | wrf (a : Addr) (m v : Byte) (p : Rmw)
  | calrco (p : RcoPoint)
  | calres (d : BitVec 2) (p : ResPoint)
  | rstdef (p : PresetPoint)
  | rdenergy (p : EnergyPoint)
  deriving DecidableEq, Repr

/-- PHASE (R32). -/
inductive Phase where
  | idle
  | exec (r : Running)
  deriving DecidableEq, Repr

/-! ## The state -/

/-- The calibration working state (R33). -/
structure CalWork where
  target : Word
  threshold : Word
  i : BitVec 5
  /-- Two's-complement signed. -/
  count : Word
  prev : Bool
  t0 : Word
  bestSetting : BitVec 4
  bestDiff : Word
  /-- Two's-complement signed. -/
  bestCount : Word
  deriving DecidableEq, Repr

/-- The state: the configuration inputs (R21), the block registers (R23), the sequencer (R32), the calibration
working state (R33); then the outside world and the observation, which are the model's own. -/
structure State where
  /-- The DeviceHandle and the open parameters; nothing writes them. -/
  config : Config
  /-- Register 0, STATUS (R24). -/
  status : Byte
  /-- Register 1, RESULT (R25). -/
  result : Word
  /-- Register 2, CAL_SETTING (R26). -/
  calSetting : BitVec 4
  /-- Register 3, CAL_COUNT, two's-complement signed (R26, R31). -/
  calCount : Word
  /-- Register 4, CAL_DIFF (R26, R31). -/
  calDiff : Word
  /-- Register 5, CAL_SUCCESS (R27). -/
  calSuccess : Bool
  /-- Register 6, INIT (R28). -/
  init : Bool
  /-- PHASE (R32). -/
  phase : Phase
  /-- The calibration working state (R33). -/
  work : CalWork
  /-- The command words the host offers, the next one first (R70, R206). -/
  hostPort : List Word
  /-- What the outside does next, in order. -/
  inputs : List Input
  /-- What answers the transport (R53, R54). -/
  sensor : Sensor
  /-- The events of the command in execution, or else of the last one, oldest first (R55). -/
  trace : List Event
  deriving DecidableEq, Repr

/-- The working state at reset. The spec gives it no reset value (R33): DESIGN CHOICE zero, assumption log 6,
unsafe. No command reads it before writing it. -/
def CalWork.reset : CalWork where
  target := 0
  threshold := 0
  i := 0
  count := 0
  prev := false
  t0 := 0
  bestSetting := 0
  bestDiff := 0
  bestCount := 0

/-- The machine right after reset (R195, R196): every block register at its reset value, PHASE = IDLE, no word
offered and no answer given yet. -/
def State.reset : State where
  config := Config.default
  status := 0x00
  result := 0
  calSetting := 0
  calCount := 0
  calDiff := 0
  calSuccess := false
  init := false
  phase := .idle
  work := CalWork.reset
  hostPort := []
  inputs := []
  sensor := .oracle
  trace := []

end Sys2Proof.Machine
end

