-- ==== Sys2Proof/Machine/Flags.lean ====
section
/-! DEFINITION. The STATUS register (spec/10_state.md R24), the status codes (spec/60_exceptions.md R171) and
what starting and ending a command write to STATUS (R172, R32). -/

namespace Sys2Proof.Machine

/-- The status codes of R171; 0x8 to 0xF are reserved and never written. -/
inductive Code where
  | ok
  | illegal
  | notInit
  | configError
  | poweredDown
  | calFail
  | transportError
  | countOverflow
  deriving DecidableEq, Repr

/-- The CODE column of R171. -/
def Code.bits : Code → BitVec 4
  | .ok => 0x0
  | .illegal => 0x1
  | .notInit => 0x2
  | .configError => 0x3
  | .poweredDown => 0x4
  | .calFail => 0x5
  | .transportError => 0x6
  | .countOverflow => 0x7

/-- STATUS.CODE, bits 3:0. -/
def statusCode (st : Byte) : BitVec 4 := st.extractLsb' 0 4

/-- STATUS.BUSY, bit 4. -/
def statusBusy (st : Byte) : Bool := st.getLsbD 4

/-- STATUS bits 6:5, reserved. -/
def statusReserved (st : Byte) : BitVec 2 := st.extractLsb' 5 2

/-- STATUS.STICKY, bit 7. -/
def statusSticky (st : Byte) : Bool := st.getLsbD 7

/-- STATUS when a command starts to execute: BUSY <- 1, the rest unchanged (R24, R32). -/
def startStatus (st : Byte) : Byte := st ||| 0x10

/-- STATUS when a command ends (R172): CODE <- code, STICKY <- 1 unless the code is OK, BUSY <- 0. -/
def endStatus (code : Code) (st : Byte) : Byte :=
  (st &&& 0xE0) ||| code.bits.setWidth 8 ||| (if code = .ok then 0x00 else 0x80)

/-- STATUS as the host reads it: the reserved bits read as 0 (R24, R30). -/
def statusRead (st : Byte) : Byte := st &&& 0x9F

/-- The codes that clear CAL_SUCCESS when a calibration ends with them (R172); NOT_INIT is not one (R173). -/
def Code.failsCalibration : Code → Bool
  | .poweredDown => true
  | .calFail => true
  | .transportError => true
  | .countOverflow => true
  | .ok => false
  | .illegal => false
  | .notInit => false
  | .configError => false

end Sys2Proof.Machine
end

