-- ==== Sys2Proof/Machine/Memory.lean ====
section
/-! DEFINITION. The simulator oracle SIM (spec/20_memory.md R54): 64 bytes as cells in canonical form, addresses
strictly rising, no cell equal to what an unlisted address reads as. -/

namespace Sys2Proof.Machine

/-- The bytes of SIM. -/
abbrev Memory := List Host.Cell

/-- What an unlisted address reads as: spec/95_test_vectors.md has "every unnamed SIM byte is 0x00"
(assumption log 9). -/
def Memory.unlisted : Byte := 0x00

/-- `SIM[a]`. -/
def Memory.read : Memory → Addr → Byte
  | [], _ => Memory.unlisted
  | (k, b) :: rest, a => if k = a.toNat then b else Memory.read rest a

/-- `SIM[a] <- b`, keeping the canonical form. -/
def Memory.write : Memory → Addr → Byte → Memory
  | [], a, b => if b = Memory.unlisted then [] else [(a.toNat, b)]
  | (k, c) :: rest, a, b =>
    if a.toNat < k then
      if b = Memory.unlisted then (k, c) :: rest else (a.toNat, b) :: (k, c) :: rest
    else if a.toNat = k then
      if b = Memory.unlisted then rest else (k, b) :: rest
    else (k, c) :: Memory.write rest a b

/-- The canonical form from address `lo` on. -/
def Memory.wfFrom (lo : Nat) : Memory → Bool
  | [] => true
  | (k, b) :: rest =>
    decide (lo ≤ k) && decide (k < 64) && decide (b ≠ Memory.unlisted) && Memory.wfFrom (k + 1) rest

/-- The canonical form. -/
def Memory.wf (m : Memory) : Bool := Memory.wfFrom 0 m

/-- The bytes the simulator holds; the free oracle holds none. -/
def Sensor.mem : Sensor → Memory
  | .oracle => []
  | .sim m => m

/-- The sensor after it has taken a byte: SIM stores it (R54); the free oracle has nothing to store it in, since
any later answer is free (R53). -/
def Sensor.store (a : Addr) (b : Byte) : Sensor → Sensor
  | .oracle => .oracle
  | .sim m => .sim (Memory.write m a b)

/-- The answer to `readByte(a)`: SIM always answers Ok(SIM[a]) (R54); the free oracle answers what the draw
says (R53). -/
def Sensor.readAnswer (a : Addr) (d : Draw) : Sensor → Option Byte
  | .oracle => if d.ack then some d.byte else none
  | .sim m => some (Memory.read m a)

/-- Whether `writeByte` answers Ok: always under SIM (R54), as the draw says under the free oracle (R53). -/
def Sensor.writeAnswer (d : Draw) : Sensor → Bool
  | .oracle => d.ack
  | .sim _ => true

/-- The sensor after a `writeByte(a, b)` that was answered: whether a write that answered Err took effect is
unknown (R107), and no later answer of the free oracle depends on it. -/
def Sensor.afterWrite (a : Addr) (b : Byte) (ok : Bool) (m : Sensor) : Sensor :=
  if ok then m.store a b else m

end Sys2Proof.Machine
end

