-- ==== Sys2Proof/Machine/RegisterMap.lean ====
section
/-! DEFINITION. The register map of the sensor (spec/10_state.md R35, "bit-exact, must be reproduced exactly")
and its value encodings (R36, spec/43_facade.md R152, R154, R155). -/

namespace Sys2Proof.Machine

/-- A RegisterField (R13): an address and the mask of the bits it stands in. -/
structure RegField where
  addr : Addr
  mask : Byte
  deriving DecidableEq, Repr

/-- A row of R35: the field with the shift and the width the table gives for it. -/
structure FieldRow where
  field : RegField
  shift : Nat
  width : Nat
  deriving DecidableEq, Repr

def fPowerDown : RegField := ⟨0x00, 0x01⟩
def fAfeGain : RegField := ⟨0x00, 0x3E⟩
def fWdogTh : RegField := ⟨0x01, 0x0F⟩
def fNoiseFloor : RegField := ⟨0x01, 0x70⟩
def fSpikeRej : RegField := ⟨0x02, 0x0F⟩
def fMinLightning : RegField := ⟨0x02, 0x30⟩
def fClearStats : RegField := ⟨0x02, 0x40⟩
def fIntSrc : RegField := ⟨0x03, 0x0F⟩
def fMaskDist : RegField := ⟨0x03, 0x20⟩
def fDivRatio : RegField := ⟨0x03, 0xC0⟩
def fEnergyL : RegField := ⟨0x04, 0xFF⟩
def fEnergyM : RegField := ⟨0x05, 0xFF⟩
def fEnergyMM : RegField := ⟨0x06, 0x0F⟩
def fDistance : RegField := ⟨0x07, 0x3F⟩
def fTuneCap : RegField := ⟨0x08, 0x0F⟩
def fDispTrco : RegField := ⟨0x08, 0x20⟩
def fDispSrco : RegField := ⟨0x08, 0x40⟩
def fDispLco : RegField := ⟨0x08, 0x80⟩
def fTrcoNok : RegField := ⟨0x3A, 0x40⟩
def fSrcoNok : RegField := ⟨0x3B, 0x40⟩
def fPresetDefault : RegField := ⟨0x3C, 0xFF⟩
def fCalibRco : RegField := ⟨0x3D, 0xFF⟩

/-- The table of R35: every field with its shift and width columns. -/
def registerMap : List FieldRow := [
  ⟨fPowerDown, 0, 1⟩, ⟨fAfeGain, 1, 5⟩, ⟨fWdogTh, 0, 4⟩, ⟨fNoiseFloor, 4, 3⟩, ⟨fSpikeRej, 0, 4⟩,
  ⟨fMinLightning, 4, 2⟩, ⟨fClearStats, 6, 1⟩, ⟨fIntSrc, 0, 4⟩, ⟨fMaskDist, 5, 1⟩, ⟨fDivRatio, 6, 2⟩,
  ⟨fEnergyL, 0, 8⟩, ⟨fEnergyM, 0, 8⟩, ⟨fEnergyMM, 0, 4⟩, ⟨fDistance, 0, 6⟩, ⟨fTuneCap, 0, 4⟩,
  ⟨fDispTrco, 5, 1⟩, ⟨fDispSrco, 6, 1⟩, ⟨fDispLco, 7, 1⟩, ⟨fTrcoNok, 6, 1⟩, ⟨fSrcoNok, 6, 1⟩,
  ⟨fPresetDefault, 0, 8⟩, ⟨fCalibRco, 0, 8⟩]

/-- DIV_RATIO (R36): code c stands for the ratio 16 << c. -/
def divRatio (d : BitVec 2) : Nat := 16 <<< d.toNat

/-- MIN_LIGHTNING (R36): codes 0 to 3 stand for 1, 5, 9, 16. -/
def minLightning (c : BitVec 2) : Nat :=
  if c = 0 then 1 else if c = 1 then 5 else if c = 2 then 9 else 16

/-- AFE_GAIN (R154): the two values the source names. -/
def gainIndoor : Byte := 0b10010
def gainOutdoor : Byte := 0b01110

/-- Bits of INT_SRC (R155); bit 1 has no meaning in the source. -/
def intNoiseHigh (x : Byte) : Bool := x.getLsbD 0
def intDisturber (x : Byte) : Bool := x.getLsbD 2
def intLightning (x : Byte) : Bool := x.getLsbD 3

/-- The storm-distance sentinel (R152): the caller's test, not the block's. -/
def distanceOutOfRange (x : Byte) : Bool := x == distOutOfRange

end Sys2Proof.Machine
end

