-- ==== Sys2Proof/Machine/Operands.lean ====
section
/-! DEFINITION. The pure computations of the block: the masked bitfield functions (spec/41_bitfield.md R100 to
R102), the energy assembly (spec/43_facade.md R150) and the calibration arithmetic
(spec/42_calibration.md R123 to R129). -/

namespace Sys2Proof.Machine

/-- `maskShift(m)` (R100): the index of the lowest set bit, by a priority encoder; 0 for m = 0. -/
def maskShift (m : Byte) : BitVec 3 :=
  if m.getLsbD 0 then 0
  else if m.getLsbD 1 then 1
  else if m.getLsbD 2 then 2
  else if m.getLsbD 3 then 3
  else if m.getLsbD 4 then 4
  else if m.getLsbD 5 then 5
  else if m.getLsbD 6 then 6
  else if m.getLsbD 7 then 7
  else 0

/-- The value readField returns of the byte it read (R101): `(b & m) >> maskShift(m)`. -/
def extractField (m b : Byte) : Byte := (b &&& m) >>> (maskShift m).toNat

/-- The byte writeField writes over the byte it read (R102): `(b & ~m) | ((v << s) & m)`. -/
def insertField (m v b : Byte) : Byte := (b &&& ~~~m) ||| ((v <<< (maskShift m).toNat) &&& m)

/-- The energy of R150: `lo | (mi << 8) | (hi << 16)`. -/
def energy (lo mi hi : Byte) : Word := zext32 lo ||| (zext32 mi <<< 8) ||| (zext32 hi <<< 16)

/-- The target of R126: `floor(2 * OSC_NOMINAL_HZ * WINDOW_MS / (1000 * ratio))`. -/
def targetOf (d : BitVec 2) : Word := BitVec.ofNat 32 (2 * oscNominalHz * windowMs / (1000 * divRatio d))

/-- The threshold of R127: `floor(target * 35 / 1000)`. -/
def thresholdOf (target : Word) : Word := BitVec.ofNat 32 (target.toNat * tolPermille / 1000)

/-- `abs(target - count)` (R128): target unsigned, count signed, exact. -/
def diffOf (target count : Word) : Word := BitVec.ofNat 32 ((target.toNat : Int) - count.toInt).natAbs

/-- The loop test of R123: `((t - t0) mod 2^32) < WINDOW_MS`. -/
def windowOpen (t t0 : Word) : Bool := (t - t0).toNat < windowMs

/-- The largest count, 2^31 - 1 (R128). -/
def countMax : Word := 0x7FFFFFFF

/-- The initial bestDiff (R33, R129). -/
def bestDiffInit : Word := 0xFFFFFFFF

end Sys2Proof.Machine
end

