-- ==== Sys2Proof/Machine/Ops.lean ====
section
/-! DEFINITION. The operations every command shares: accepting a command, ending it with a status
(spec/60_exceptions.md R172, the block's one way out of a failure; there is no trap to return from, R182), the
port events and their trace (spec/00_scope.md R11, spec/20_memory.md R55), reset (spec/70_reset_and_hazards.md
R195) and the host's register read (spec/10_state.md R23). -/

namespace Sys2Proof.Machine

/-! ## Starting and ending a command -/

/-- `op` of EXEC(op, j) (R32). -/
def Running.op : Running → Instr
  | .rdf a m => .rdf a m
  | .wrf a m v _ => .wrf a m v
  | .calrco _ => .calrco
  | .calres d _ => .calres d
  | .rstdef _ => .rstdef
  | .rdenergy _ => .rdenergy

/-- CALRCO and CALRES, the commands that own CAL_SUCCESS (R27, R172). -/
def isCalibration : Instr → Bool
  | .begin => false
  | .mshift _ => false
  | .rdf _ _ => false
  | .wrf _ _ _ => false
  | .calrco => true
  | .calres _ => true
  | .rstdef => false
  | .rdenergy => false

/-- A command is taken: its trace begins empty (R55). -/
def accept (s : State) : State := { s with trace := [] }

/-- The command begins to execute at r: PHASE <- EXEC, BUSY <- 1 (R32). -/
def enter (r : Running) (s : State) : State :=
  { s with phase := .exec r, status := startStatus s.status }

/-- The command in execution goes on at r. -/
def goOn (r : Running) (s : State) : State := { s with phase := .exec r }

/-- Ending a command with a code (R172): STATUS, CAL_SUCCESS where the code fails a calibration, PHASE <- IDLE;
nothing else. `op` is the command, or none for a word that decodes to none. -/
def endCommand (op : Option Instr) (code : Code) (s : State) : State :=
  { s with
    status := endStatus code s.status
    calSuccess := if op.any isCalibration && code.failsCalibration then false else s.calSuccess
    phase := .idle }

/-- `finish` (R11). -/
def finish (op : Instr) (s : State) : State := endCommand (some op) .ok s

/-! ## Port events -/

/-- An event is appended to the trace (R55). -/
def record (e : Event) (s : State) : State := { s with trace := s.trace ++ [e] }

/-- `MemRead(a, 1)` (R11): the answer, and the state with the event recorded. -/
def memRead (a : Addr) (d : Draw) (s : State) : Option Byte × State :=
  (s.sensor.readAnswer a d, record (.rd a (s.sensor.readAnswer a d)) s)

/-- A write is answered: the sensor after it. -/
def deliver (a : Addr) (b : Byte) (ok : Bool) (s : State) : State :=
  { s with sensor := s.sensor.afterWrite a b ok }

/-- `MemWrite(a, 1, b)` (R11): the answer, and the state with the byte delivered and the event recorded. -/
def memWrite (a : Addr) (b : Byte) (d : Draw) (s : State) : Bool × State :=
  (s.sensor.writeAnswer d,
   record (.wr a b (s.sensor.writeAnswer d)) (deliver a b (s.sensor.writeAnswer d) s))

/-- The level `Pin()` samples: that of the pin IRQ_PIN (R21, R187). -/
def pinLevel (c : Config) (d : Draw) : Bool := d.pins.getLsbD c.irqPin.toNat

/-- The next event of a command's pseudocode, and how the command goes on after it. A transport answer `Err`
has no continuation: it ends the command (R11's `?`). -/
inductive Action where
  /-- `MemRead(a, 1)?` -/
  | rd (a : Addr) (k : Byte → State → State)
  /-- `MemWrite(a, 1, b)?` -/
  | wr (a : Addr) (b : Byte) (k : State → State)
  /-- `Millis()` -/
  | clk (k : Word → State → State)
  /-- `Pin()` -/
  | pin (k : Bool → State → State)
  /-- `Delay(us)` -/
  | dly (us : Nat) (k : State → State)

/-- One event of the command `op`: it is recorded, and the command goes on with the answer; a transport answer
Err ends it with TRANSPORT_ERROR at once (R53, R176). -/
def Action.perform (op : Instr) (d : Draw) (s : State) : Action → State
  | .rd a k =>
    match memRead a d s with
    | (some b, t) => k b t
    | (none, t) => endCommand (some op) .transportError t
  | .wr a b k =>
    match memWrite a b d s with
    | (true, t) => k t
    | (false, t) => endCommand (some op) .transportError t
  | .clk k => k d.millis (record (.clk d.millis) s)
  | .pin k => k (pinLevel s.config d) (record (.pin (pinLevel s.config d)) s)
  | .dly us k => k (record (.dly us) s)

/-! ## Reset -/

/-- The values of R195. The working state has no reset value (R33), the configuration inputs are not changed
(R21), and no transaction is performed (R198). -/
def blockReset (s : State) : State :=
  { s with
    status := 0x00
    result := 0
    calSetting := 0
    calCount := 0
    calDiff := 0
    calSuccess := false
    init := false
    phase := .idle }

/-! ## The host's register read -/

/-- What the host reads at a register number (R23): narrow registers zero-extended, 7 to 255 read 0. R23 makes
registers 2, 5 and 6 eight bits wide when read and gives the read port no width; that every read is one 32-bit word,
with zeros above the register's width, is a DESIGN CHOICE (assumption log 23). -/
def hostRead (s : State) (n : Byte) : Word :=
  match n.toNat with
  | 0 => zext32 (statusRead s.status)
  | 1 => s.result
  | 2 => zext32 s.calSetting
  | 3 => s.calCount
  | 4 => s.calDiff
  | 5 => zext32 (BitVec.ofBool s.calSuccess)
  | 6 => zext32 (BitVec.ofBool s.init)
  | _ => 0

end Sys2Proof.Machine
end

