-- ==== Sys2Proof/Machine/Bitfield.lean ====
section
/-! DEFINITION. The BitfieldRegister family (spec/41_bitfield.md): readField and writeField as events, and the
pseudocode of RDF and WRF. -/

namespace Sys2Proof.Machine

/-- `let x = readField(a, m)?` (R101): one read; k goes on with the field's value. -/
def readField (f : RegField) (k : Byte → State → State) : Action :=
  .rd f.addr fun b => k (extractField f.mask b)

/-- `writeField(a, m, v)?` (R102), at the point p of its two transactions: always a read, then always a write of
the merged byte. `at_ p` is the command's point for each of the two; k goes on after the write. -/
def writeField (f : RegField) (v : Byte) (p : Rmw) (at_ : Rmw → Running) (k : State → State) : Action :=
  match p with
  | .read => .rd f.addr fun b => goOn (at_ (.write b))
  | .write b => .wr f.addr (insertField f.mask v b) k

/-- RDF a, m (R106). -/
def rdfAction (a : Addr) (m : Byte) : Action :=
  readField ⟨a, m⟩ fun x s => finish (.rdf a m) { s with result := zext32 x }

/-- WRF a, m, v (R107). -/
def wrfAction (a : Addr) (m v : Byte) (p : Rmw) : Action :=
  writeField ⟨a, m⟩ v p (.wrf a m v) (finish (.wrf a m v))

end Sys2Proof.Machine
end

