-- ==== Sys2Proof/Machine/Calibration.lean ====
section
/-! DEFINITION. The CalibrationEngine family (spec/42_calibration.md): the pseudocode of CALRCO (R121) and
CALRES (R130), with the edge-count timer (R123) inside it. -/

namespace Sys2Proof.Machine

/-- `checkPowered()` (R120): one read; a powered-down sensor ends the calibration with POWERED_DOWN, which clears
CAL_SUCCESS (R172). -/
def checkPowered (op : Instr) (k : State → State) : Action :=
  readField fPowerDown fun pd s => if pd = 1 then endCommand (some op) .poweredDown s else k s

/-- The verdict of CALRCO's step 5 (R121): success only if both not-OK fields read 0. -/
def rcoVerdict (t s : Byte) (st : State) : State :=
  if t = 0 ∧ s = 0 then finish .calrco { st with calSuccess := true }
  else endCommand (some .calrco) .calFail st

/-- CALRCO (R121), point by point. -/
def rcoAction : RcoPoint → Action
  | .power => checkPowered .calrco (goOn (.calrco (.trigger .read)))
  | .trigger p =>
    writeField fCalibRco directCmd p (fun q => .calrco (.trigger q)) (goOn (.calrco (.showSrco .read)))
  | .showSrco p =>
    writeField fDispSrco 1 p (fun q => .calrco (.showSrco q)) (goOn (.calrco .settle))
  | .settle => .dly rcoSettleUs (goOn (.calrco (.hideSrco .read)))
  | .hideSrco p =>
    writeField fDispSrco 0 p (fun q => .calrco (.hideSrco q)) (goOn (.calrco .trco))
  | .trco => readField fTrcoNok fun t => goOn (.calrco (.srco t))
  | .srco t => readField fSrcoNok fun s => rcoVerdict t s

/-! ## CALRES -/

/-- The assignments before the scan (R130): target, threshold, the best so far, i = 0. -/
def scanInit (d : BitVec 2) (s : State) : State :=
  { s with
    work.target := targetOf d
    work.threshold := thresholdOf (targetOf d)
    work.bestSetting := 0
    work.bestDiff := bestDiffInit
    work.bestCount := 0
    work.i := 0 }

/-- Step g (R129, R130): the setting is recorded if its difference is strictly the smallest so far. -/
def scanRecord (w : CalWork) : CalWork :=
  if (diffOf w.target w.count).toNat < w.bestDiff.toNat then
    { w with
      bestDiff := diffOf w.target w.count
      bestSetting := w.i.setWidth 4
      bestCount := w.count }
  else w

/-- The end of a round of the scan: step g, then the next setting, or step 3 after setting 15. -/
def scanNext (d : BitVec 2) (s : State) : State :=
  let s' := { s with work := { scanRecord s.work with i := s.work.i + 1 } }
  if s.work.i.toNat + 1 < nTune then goOn (.calres d (.tune .read)) s' else goOn (.calres d (.best .read)) s'

/-- The reference sample of a window (R123): prev <- l0, count <- 0. -/
def windowReference (l : Bool) (s : State) : State :=
  { s with work.prev := l, work.count := 0 }

/-- A sample of a window (R123, R128): a level change counts, or ends the command at 2^31 - 1. -/
def windowSample (d : BitVec 2) (l : Bool) (s : State) : State :=
  if l ≠ s.work.prev then
    if s.work.count = countMax then endCommand (some (.calres d)) .countOverflow s
    else goOn (.calres d .windowClock) { s with work.count := s.work.count + 1, work.prev := l }
  else goOn (.calres d .windowClock) { s with work.prev := l }

/-- The end of CALRES after the write-back (R130): the CalibrationResult, then step 4's verdict (R127). -/
def scanVerdict (d : BitVec 2) (s : State) : State :=
  let s' := { s with
    calSetting := s.work.bestSetting
    calCount := s.work.bestCount
    calDiff := s.work.bestDiff }
  if s.work.bestDiff.toNat < s.work.threshold.toNat then finish (.calres d) { s' with calSuccess := true }
  else endCommand (some (.calres d)) .calFail s'

/-- CALRES d (R130), point by point; the letters are the source's steps. -/
def resAction (d : BitVec 2) (s : State) : ResPoint → Action
  | .power => checkPowered (.calres d) (goOn (.calres d (.div .read)))
  -- 1.
  | .div p =>
    writeField fDivRatio (d.setWidth 8) p (fun q => .calres d (.div q))
      fun s => goOn (.calres d (.tune .read)) (scanInit d s)
  -- a.
  | .tune p =>
    writeField fTuneCap (s.work.i.setWidth 8) p (fun q => .calres d (.tune q)) (goOn (.calres d .settleB))
  -- b.
  | .settleB => .dly s.config.tuneSettleB (goOn (.calres d (.showLco .read)))
  -- c.
  | .showLco p =>
    writeField fDispLco 1 p (fun q => .calres d (.showLco q)) (goOn (.calres d .settleD))
  -- d.
  | .settleD => .dly s.config.tuneSettleD (goOn (.calres d .windowStart))
  -- e. countEdges() of R123
  | .windowStart => .clk fun t s => goOn (.calres d .windowRef) { s with work.t0 := t }
  | .windowRef => .pin fun l s => goOn (.calres d .windowClock) (windowReference l s)
  | .windowClock => .clk fun t s =>
    if windowOpen t s.work.t0 then goOn (.calres d .windowPin) s else goOn (.calres d (.hideLco .read)) s
  | .windowPin => .pin fun l s => windowSample d l s
  -- f., then g.
  | .hideLco p => writeField fDispLco 0 p (fun q => .calres d (.hideLco q)) (scanNext d)
  -- 3., then 4.
  | .best p =>
    writeField fTuneCap (s.work.bestSetting.setWidth 8) p (fun q => .calres d (.best q)) (scanVerdict d)

end Sys2Proof.Machine
end

