-- ==== Sys2Proof/Machine/Facade.lean ====
section
/-! DEFINITION. The SensorFacade family (spec/43_facade.md): the pseudocode of RDENERGY (R150) and RSTDEF
(R151). -/

namespace Sys2Proof.Machine

/-- RDENERGY (R150): three reads, then RESULT. -/
def energyAction : EnergyPoint → Action
  | .lsb => readField fEnergyL fun lo => goOn (.rdenergy (.msb lo))
  | .msb lo => readField fEnergyM fun mi => goOn (.rdenergy (.mmsb lo mi))
  | .mmsb lo mi => readField fEnergyMM fun hi s => finish .rdenergy { s with result := energy lo mi hi }

/-- RSTDEF (R151): the direct command to PRESET_DEFAULT, then the standard settle delay. -/
def presetAction : PresetPoint → Action
  | .trigger p =>
    writeField fPresetDefault directCmd p (fun q => .rstdef (.trigger q)) (goOn (.rstdef .settle))
  | .settle => .dly stdSettleUs (finish .rstdef)

end Sys2Proof.Machine
end

