-- ==== Sys2Proof/Machine/Transport.lean ====
section
/-! DEFINITION. The transport family (spec/40_transport.md R90 to R94): the configuration check of BEGIN, and
the SPI address byte of spec/20_memory.md R69, which stands for a model of the transport and which no command
of the block uses. -/

namespace Sys2Proof.Machine

/-- `BUS_ADDR in I2C_SUBADDR_OK` (R90, R91): a 2-bit value, and not the one excluded. -/
def subaddrOk (c : Config) : Bool :=
  decide (c.busAddr.toNat < 4) && decide (c.busAddr.setWidth 2 ≠ c.i2cRefused)

/-- The configuration check of BEGIN (R90, R93): only the I2C variant can fail it. -/
def configOk (c : Config) : Bool :=
  match c.xportSel with
  | .i2c => subaddrOk c
  | .spi => true

/-- The address byte of an SPI transfer (R69): a read sets SPI_READ_FLAG. -/
def spiAddressByte (c : Config) (read : Bool) (a : Addr) : Byte :=
  if read then c.spiReadFlag ||| a.setWidth 8 else a.setWidth 8

end Sys2Proof.Machine
end

