-- ==== Sys2Proof/Machine/Sequencer.lean ====
section
/-! DEFINITION. The sequencer (spec/10_state.md R32): the next event of the command in execution, running it
event by event as far as the ports answer, reset between two events (spec/70_reset_and_hazards.md R197), a word
that is no command (spec/60_exceptions.md R174), and what the block does next. -/

namespace Sys2Proof.Machine

/-- The next event of the command in execution. -/
def action (r : Running) (s : State) : Action :=
  match r with
  | .rdf a m => rdfAction a m
  | .wrf a m v p => wrfAction a m v p
  | .calrco p => rcoAction p
  | .calres d p => resAction d s p
  | .rstdef p => presetAction p
  | .rdenergy p => energyAction p

/-- The index of a writeField's next event, from its first on. -/
def Rmw.index : Rmw → Nat
  | .read => 0
  | .write _ => 1

/-- `j` of EXEC(op, j) (R32): the index of the next event in the command's pseudocode, counting the events in
the order the pseudocode lists them, a loop's once. -/
def Running.index : Running → Nat
  | .rdf _ _ => 0
  | .wrf _ _ _ p => p.index
  | .calrco p =>
    match p with
    | .power => 0
    | .trigger q => 1 + q.index
    | .showSrco q => 3 + q.index
    | .settle => 5
    | .hideSrco q => 6 + q.index
    | .trco => 8
    | .srco _ => 9
  | .calres _ p =>
    match p with
    | .power => 0
    | .div q => 1 + q.index
    | .tune q => 3 + q.index
    | .settleB => 5
    | .showLco q => 6 + q.index
    | .settleD => 8
    | .windowStart => 9
    | .windowRef => 10
    | .windowClock => 11
    | .windowPin => 12
    | .hideLco q => 13 + q.index
    | .best q => 15 + q.index
  | .rstdef p =>
    match p with
    | .trigger q => q.index
    | .settle => 2
  | .rdenergy p =>
    match p with
    | .lsb => 0
    | .msb _ => 1
    | .mmsb _ _ => 2

/-- One event of the command in execution, with the answer of its port. -/
def perform (r : Running) (d : Draw) (s : State) : State := (action r s).perform r.op d s

/-- The command in execution runs on, one event per answer, until it ends (the inputs left over stay), no port
answers (the command waits, BUSY = 1), or reset is asserted (which the next step takes). -/
def run : List Input → State → State
  | [], s => { s with inputs := [] }
  | x :: xs, s =>
    match s.phase with
    | .idle => { s with inputs := x :: xs }
    | .exec r =>
      match x with
      | .answer d => run xs (perform r d s)
      | .wait => { s with inputs := xs }
      | .reset reached => { s with inputs := .reset reached :: xs }

/-- The command in execution goes on with the inputs there are. -/
def resume (s : State) : State := run s.inputs s

/-- A write that a reset cuts but that reached the sensor all the same (R197). Only SIM can hold it: under the
free oracle any later answer is free. -/
def cutWrite (s : State) : State :=
  match s.phase with
  | .idle => s
  | .exec r =>
    match action r s with
    | .wr a b _ => { s with sensor := s.sensor.store a b }
    | .rd _ _ => s
    | .clk _ => s
    | .pin _ => s
    | .dly _ _ => s

/-- Reset, between two events (R195, R197). -/
def takeReset (reached : Bool) (s : State) : State := blockReset (if reached then cutWrite s else s)

/-- A word that decodes to no command (R75, R174): no event, and STATUS only. The block keeps no copy of it. -/
def illegalWord (s : State) : State := endCommand none .illegal (accept s)

/-- What the block does in its next step. -/
inductive Job where
  /-- Reset is asserted. -/
  | reset (reached : Bool) (rest : List Input)
  /-- A command is in execution: it goes on. -/
  | command
  /-- IDLE, and the host offers a word: it is taken (R70). -/
  | take (w : Word) (rest : List Word)
  /-- IDLE, and no word is offered. -/
  | nothing
  deriving DecidableEq, Repr

/-- Reset comes first; a word is taken only in IDLE, and one offered while BUSY stays offered (R70, R206). That in IDLE
only a reset at the head of the inputs is taken, and before an offered word, is a DESIGN CHOICE (assumption
log 10): R195 limits reset to no moment. -/
def nextJob (s : State) : Job :=
  match s.inputs with
  | .reset reached :: rest => .reset reached rest
  | _ =>
    match s.phase with
    | .exec _ => .command
    | .idle =>
      match s.hostPort with
      | w :: ws => .take w ws
      | [] => .nothing

end Sys2Proof.Machine
end

