-- ==== Sys2Proof/Machine/Commands.lean ====
section
/-! DEFINITION. The meaning of each command: the check of INIT (spec/60_exceptions.md R173), then its
pseudocode, run as far as the ports answer (Sequencer.lean). -/

namespace Sys2Proof.Machine

/-- A command that uses the bus: NOT_INIT with an empty trace while INIT = 0 (R173); otherwise it begins at r
and runs. -/
def busCommand (r : Running) (s : State) : Host.Outcome State Fault Refusal :=
  if s.init then .next (resume (enter r (accept s)))
  else .next (endCommand (some r.op) .notInit (accept s))

/-- BEGIN (R90): no event; INIT is written on every execution. -/
def execBegin (s : State) : Host.Outcome State Fault Refusal :=
  if configOk s.config then .next (finish .begin { accept s with init := true })
  else .next (endCommand (some .begin) .configError { accept s with init := false })

/-- MSHIFT m (R105): no event, no check of INIT. -/
def execMshift (m : Byte) (s : State) : Host.Outcome State Fault Refusal :=
  .next (finish (.mshift m) { accept s with result := zext32 (maskShift m) })

/-- RDF a, m (R106). -/
def execRdf (a : Addr) (m : Byte) (s : State) : Host.Outcome State Fault Refusal :=
  busCommand (.rdf a m) s

/-- WRF a, m, v (R107). -/
def execWrf (a : Addr) (m v : Byte) (s : State) : Host.Outcome State Fault Refusal :=
  busCommand (.wrf a m v .read) s

/-- CALRCO (R121). -/
def execCalrco (s : State) : Host.Outcome State Fault Refusal :=
  busCommand (.calrco .power) s

/-- CALRES d (R130). -/
def execCalres (d : BitVec 2) (s : State) : Host.Outcome State Fault Refusal :=
  busCommand (.calres d .power) s

/-- RSTDEF (R151). -/
def execRstdef (s : State) : Host.Outcome State Fault Refusal :=
  busCommand (.rstdef (.trigger .read)) s

/-- RDENERGY (R150). -/
def execRdenergy (s : State) : Host.Outcome State Fault Refusal :=
  busCommand (.rdenergy .lsb) s

end Sys2Proof.Machine
end

