-- ==== Sys2Proof/Machine/Dispatch.lean ====
section
/-! DEFINITION. The dispatch of a command to its meaning, one arm per row of spec/opcode_table.json. -/

namespace Sys2Proof.Machine

def exec (i : Instr) (s : State) : Host.Outcome State Fault Refusal :=
  match i with
  | .begin => Sys2Proof.Machine.execBegin s
  | .mshift m => Sys2Proof.Machine.execMshift m s
  | .rdf a m => Sys2Proof.Machine.execRdf a m s
  | .wrf a m v => Sys2Proof.Machine.execWrf a m v s
  | .calrco => Sys2Proof.Machine.execCalrco s
  | .calres d => Sys2Proof.Machine.execCalres d s
  | .rstdef => Sys2Proof.Machine.execRstdef s
  | .rdenergy => Sys2Proof.Machine.execRdenergy s

end Sys2Proof.Machine
end

