-- ==== Sys2Proof/Machine/Step.lean ====
section
/-! DEFINITION. One step of the machine (spec/10_state.md R32, spec/30_encoding.md R70): reset, or the command
in execution goes on, or the next word of the host is taken, decoded and executed. -/

namespace Sys2Proof.Machine

/-- One step. With nothing to do the machine stays as it is: it waits for the host. -/
def step (s : State) : Host.Outcome State Fault Refusal :=
  match nextJob s with
  | .reset reached rest => .next (takeReset reached { s with inputs := rest })
  | .command => .next (resume s)
  | .take w rest =>
    match decode w with
    | .ok i => exec i { s with hostPort := rest }
    | .error _ => .next (illegalWord { s with hostPort := rest })
  | .nothing => .next s

/-- The inputs without the resets that would come before the next word. -/
def dropResets : List Input → List Input
  | .reset _ :: xs => dropResets xs
  | .answer d :: xs => .answer d :: xs
  | .wait :: xs => .wait :: xs
  | [] => []

/-- The word stands first on the host port, in a machine that takes it in its very next step: IDLE (BUSY
follows PHASE, R32), with no reset asserted before it. -/
def State.withFetchWord (s : State) (nbits w : Nat) : State :=
  { s with
    phase := .idle
    status := s.status &&& 0xEF
    hostPort := commandWord nbits w :: s.hostPort
    inputs := dropResets s.inputs }

end Sys2Proof.Machine
end

