-- ==== Sys2Proof/Machine/Assembler.lean ====
section
/-! DEFINITION. The assembler of spec/30_encoding.md R78 to R80: one command a line, its operands checked against
their fields, and the pseudo-instructions of R79, which expand to RDF or WRF with a field of the register map.
The block never sees this text; it sees the words (R70). What R78 leaves open of the spelling is assumption
log 18. -/

namespace Sys2Proof.Machine

/-- A piece of a source line. -/
abbrev Text := List Char

/-! ## Numerals (R9) -/

/-- The value of a digit, of either case for a hexadecimal one. -/
def digitValue (c : Char) : Nat :=
  if '0' ≤ c ∧ c ≤ '9' then c.toNat - 48
  else if 'A' ≤ c ∧ c ≤ 'F' then c.toNat - 55
  else if 'a' ≤ c ∧ c ≤ 'f' then c.toNat - 87
  else 16

/-- The number the digits write in a base, after the number n so far. -/
def digits (base : Nat) : Nat → Text → Option Nat
  | n, [] => some n
  | n, c :: cs => if digitValue c < base then digits base (n * base + digitValue c) cs else none

/-- A numeral (R9): `0x..`, `0b..` or plain decimal, with at least one digit. -/
def numeral : Text → Option Nat
  | [] => none
  | '0' :: 'x' :: c :: cs => digits 16 0 (c :: cs)
  | '0' :: 'b' :: c :: cs => digits 2 0 (c :: cs)
  | c :: cs => digits 10 0 (c :: cs)

/-! ## The parts of a line (R78) -/

def isBlank (c : Char) : Bool := c == ' ' || c == '\t'

/-- A text without blanks at its ends. -/
def trim (t : Text) : Text := ((t.dropWhile isBlank).reverse.dropWhile isBlank).reverse

/-- The texts between commas. -/
def splitCommas : Text → List Text
  | [] => [[]]
  | c :: cs =>
    if c = ',' then [] :: splitCommas cs
    else
      match splitCommas cs with
      | t :: ts => (c :: t) :: ts
      | [] => [[c]]

/-- A line without its comment: `;` starts one. -/
def code (line : Text) : Text := trim (line.takeWhile (· != ';'))

/-- The mnemonic of a line's code. -/
def mnemonicOf (t : Text) : Text := t.takeWhile fun c => !isBlank c

/-- The operands of a line's code, separated by commas. -/
def operandsOf (t : Text) : List Text :=
  match trim (t.dropWhile fun c => !isBlank c) with
  | [] => []
  | c :: cs => (splitCommas (c :: cs)).map trim

/-! ## Operands -/

/-- Names that stand for operand values (R78, R79). -/
abbrev Symbols := List (Text × Nat)

def divSymbols : Symbols :=
  [("DIV16".toList, 0), ("DIV32".toList, 1), ("DIV64".toList, 2), ("DIV128".toList, 3)]

def minlSymbols : Symbols :=
  [("MINL1".toList, 0), ("MINL5".toList, 1), ("MINL9".toList, 2), ("MINL16".toList, 3)]

def gainSymbols : Symbols := [("INDOOR".toList, 0x12), ("OUTDOOR".toList, 0x0E)]

/-- The value of an operand: a symbol's, or the numeral's. -/
def operandValue (syms : Symbols) (t : Text) : Option Nat :=
  match syms.find? (fun p => p.1 == t) with
  | some p => some p.2
  | none => numeral t

/-- An operand that must fit n bits: the assembler refuses one that does not, and never truncates (R78). -/
def fits (n : Nat) (v : Nat) : Option (BitVec n) := if v < 2 ^ n then some (BitVec.ofNat n v) else none

/-- The operand t in a field of n bits. -/
def operandIn (n : Nat) (syms : Symbols) (t : Text) : Option (BitVec n) :=
  (operandValue syms t).bind (fits n)

/-! ## Pseudo-instructions (R79) -/

/-- A row of R79: a read of a field, or a write of an operand to it. -/
inductive Access where
  | read
  /-- The values the assembler accepts, and the names it knows for them. -/
  | write (allowed : List Nat) (syms : Symbols)
  deriving DecidableEq, Repr

structure PseudoRow where
  name : Text
  field : RegField
  access : Access
  deriving DecidableEq, Repr

def bit01 : Access := .write [0, 1] []

/-- The table of R79. Its column gives WRGAIN only the names INDOOR (0x12) and OUTDOOR (0x0E); that the assembler also
takes these two values as numerals is a DESIGN CHOICE (assumption log 18). -/
def pseudoRows : List PseudoRow := [
  ⟨"RDPWD".toList, fPowerDown, .read⟩, ⟨"WRPWD".toList, fPowerDown, bit01⟩,
  ⟨"RDGAIN".toList, fAfeGain, .read⟩, ⟨"WRGAIN".toList, fAfeGain, .write [0x12, 0x0E] gainSymbols⟩,
  ⟨"RDWDTH".toList, fWdogTh, .read⟩, ⟨"WRWDTH".toList, fWdogTh, .write (List.range 11) []⟩,
  ⟨"RDNFL".toList, fNoiseFloor, .read⟩, ⟨"WRNFL".toList, fNoiseFloor, .write (List.range 8) []⟩,
  ⟨"RDSREJ".toList, fSpikeRej, .read⟩, ⟨"WRSREJ".toList, fSpikeRej, .write (List.range 11) []⟩,
  ⟨"RDMINL".toList, fMinLightning, .read⟩,
  ⟨"WRMINL".toList, fMinLightning, .write (List.range 4) minlSymbols⟩,
  ⟨"RDCLSTAT".toList, fClearStats, .read⟩, ⟨"WRCLSTAT".toList, fClearStats, bit01⟩,
  ⟨"RDINT".toList, fIntSrc, .read⟩,
  ⟨"RDMDIST".toList, fMaskDist, .read⟩, ⟨"WRMDIST".toList, fMaskDist, bit01⟩,
  ⟨"RDDIV".toList, fDivRatio, .read⟩, ⟨"WRDIV".toList, fDivRatio, .write (List.range 4) divSymbols⟩,
  ⟨"RDDIST".toList, fDistance, .read⟩,
  ⟨"RDTUNE".toList, fTuneCap, .read⟩, ⟨"WRTUNE".toList, fTuneCap, .write (List.range 16) []⟩,
  ⟨"RDDTRCO".toList, fDispTrco, .read⟩, ⟨"WRDTRCO".toList, fDispTrco, bit01⟩,
  ⟨"RDDSRCO".toList, fDispSrco, .read⟩, ⟨"WRDSRCO".toList, fDispSrco, bit01⟩,
  ⟨"RDDLCO".toList, fDispLco, .read⟩, ⟨"WRDLCO".toList, fDispLco, bit01⟩,
  ⟨"RDTRCONOK".toList, fTrcoNok, .read⟩,
  ⟨"RDSRCONOK".toList, fSrcoNok, .read⟩]

/-- The expansion of a pseudo-instruction (R79); an operand outside the row's range is refused (R153). -/
def PseudoRow.expand (r : PseudoRow) (ops : List Text) : Option Instr :=
  match r.access, ops with
  | .read, [] => some (.rdf r.field.addr r.field.mask)
  | .read, _ :: _ => none
  | .write allowed syms, [t] =>
    match operandValue syms t with
    | some v =>
      if allowed.contains v then some (.wrf r.field.addr r.field.mask (BitVec.ofNat 8 v)) else none
    | none => none
  | .write _ _, [] => none
  | .write _ _, _ :: _ :: _ => none

/-! ## The assembler and the disassembler -/

/-- The command a mnemonic and its operands write, by the syntax of R78. -/
def assembleCore (k : Mnemonic) (ops : List Text) : Option Instr :=
  match k, ops with
  | .BEGIN, [] => some .begin
  | .MSHIFT, [m] => (operandIn 8 [] m).map .mshift
  | .RDF, [a, m] => (operandIn 6 [] a).bind fun a => (operandIn 8 [] m).map (.rdf a)
  | .WRF, [a, m, v] =>
    (operandIn 6 [] a).bind fun a => (operandIn 8 [] m).bind fun m => (operandIn 8 [] v).map (.wrf a m)
  | .CALRCO, [] => some .calrco
  | .CALRES, [d] => (operandIn 2 divSymbols d).map .calres
  | .RSTDEF, [] => some .rstdef
  | .RDENERGY, [] => some .rdenergy
  | _, _ => none

/-- The spelling of a mnemonic. -/
def spelling : Mnemonic → Text
  | .BEGIN => "BEGIN".toList
  | .MSHIFT => "MSHIFT".toList
  | .RDF => "RDF".toList
  | .WRF => "WRF".toList
  | .CALRCO => "CALRCO".toList
  | .CALRES => "CALRES".toList
  | .RSTDEF => "RSTDEF".toList
  | .RDENERGY => "RDENERGY".toList

/-- The command a line's code writes, or none where the assembler refuses it. -/
def assembleCode (t : Text) : Option Instr :=
  match opRows.find? (fun r => spelling r.mnemonic == mnemonicOf t) with
  | some r => assembleCore r.mnemonic (operandsOf t)
  | none =>
    match pseudoRows.find? (fun r => r.name == mnemonicOf t) with
    | some r => r.expand (operandsOf t)
    | none => none

/-- What a source line gives. -/
inductive Assembled where
  /-- No command on the line. -/
  | blank
  /-- The word of its command; a pseudo-instruction's is that of its expansion (R80). -/
  | word (w : Word)
  /-- The assembler refuses the line. -/
  | refused
  deriving DecidableEq, Repr

/-- One line of source (R78). -/
def assembleLine (line : Text) : Assembled :=
  match code line with
  | [] => .blank
  | c :: cs =>
    match assembleCode (c :: cs) with
    | some i => .word (encode i)
    | none => .refused

/-- A program: the words of its lines, or none if a line is refused. That one refused line leaves the whole program
without words is a DESIGN CHOICE (assumption log 18): R78 and R153 say of the refused line only that it has none. -/
def assemble : List Text → Option (List Word)
  | [] => some []
  | line :: rest =>
    match assembleLine line with
    | .blank => assemble rest
    | .word w => (assemble rest).map (w :: ·)
    | .refused => none

def hexDigit (n : Nat) : Char := if n < 10 then Char.ofNat (48 + n) else Char.ofNat (55 + n)

/-- A byte as a two-digit hexadecimal numeral. -/
def hexByte (v : Nat) : Text := ['0', 'x', hexDigit (v / 16), hexDigit (v % 16)]

/-- The disassembler (R80): it prints the command itself, never a pseudo-instruction. -/
def disassemble : Instr → Text
  | .begin => spelling .BEGIN
  | .mshift m => spelling .MSHIFT ++ ' ' :: hexByte m.toNat
  | .rdf a m => spelling .RDF ++ ' ' :: hexByte a.toNat ++ ',' :: ' ' :: hexByte m.toNat
  | .wrf a m v =>
    spelling .WRF ++ ' ' :: hexByte a.toNat ++ ',' :: ' ' :: hexByte m.toNat ++
      ',' :: ' ' :: hexByte v.toNat
  | .calrco => spelling .CALRCO
  | .calres d => spelling .CALRES ++ ' ' :: hexByte d.toNat
  | .rstdef => spelling .RSTDEF
  | .rdenergy => spelling .RDENERGY

end Sys2Proof.Machine
end

