-- ==== Sys2Proof/Safety.lean ====
section
/-! DEFINITION. The terms claims are stated in: the invariant of the machine, the codes a command may end with, what
the assembler makes of a line, and the answers that make a window or a whole scan (spec/42_calibration.md R123, R130). -/

namespace Sys2Proof.Machine

/-! ## The invariant -/

/-- STATUS (R24, R32): BUSY exactly when a command is in execution, the reserved bits 0, CODE one of the assigned
codes (R171), and STICKY set after any code but OK (R172). -/
structure StatusInv (s : State) : Prop where
  busy : statusBusy s.status = true ↔ s.phase ≠ .idle
  reserved : statusReserved s.status = 0
  assigned : (statusCode s.status).toNat < 8
  sticky : statusCode s.status ≠ 0 → statusSticky s.status = true

/-- A point of CALRES inside the scan or after it, where the working state is in use (R33). -/
def ResPoint.scanning : ResPoint → Bool
  | .power => false
  | .div _ => false
  | .tune _ => true
  | .settleB => true
  | .showLco _ => true
  | .settleD => true
  | .windowStart => true
  | .windowRef => true
  | .windowClock => true
  | .windowPin => true
  | .hideLco _ => true
  | .best _ => true

/-- A point of CALRES where `count` holds a count: in a window after its reference sample, and up to step g. -/
def ResPoint.counting : ResPoint → Bool
  | .power => false
  | .div _ => false
  | .tune _ => false
  | .settleB => false
  | .showLco _ => false
  | .settleD => false
  | .windowStart => false
  | .windowRef => false
  | .windowClock => true
  | .windowPin => true
  | .hideLco _ => true
  | .best _ => false

/-- Step 3, after the scan: all 16 settings have been tried. -/
def ResPoint.scanned : ResPoint → Bool
  | .best _ => true
  | .power => false
  | .div _ => false
  | .tune _ => false
  | .settleB => false
  | .showLco _ => false
  | .settleD => false
  | .windowStart => false
  | .windowRef => false
  | .windowClock => false
  | .windowPin => false
  | .hideLco _ => false

/-- The working state while CALRES d scans (R33, R126 to R129): target and threshold are those of d; a count is
never negative; once a setting has been tried, the best difference is below 2^31 (R31), it is that of the best
count, and the best setting is one already tried. -/
structure ScanInv (d : BitVec 2) (p : ResPoint) (w : CalWork) : Prop where
  target : w.target = targetOf d
  threshold : w.threshold = thresholdOf (targetOf d)
  setting : if p.scanned then w.i.toNat = nTune else w.i.toNat < nTune
  count : p.counting = true → w.count.toNat < 2 ^ 31
  bestCount : w.bestCount.toNat < 2 ^ 31
  first : w.i.toNat = 0 → w.bestDiff = bestDiffInit
  best : 0 < w.i.toNat →
    w.bestSetting.toNat < w.i.toNat ∧ w.bestDiff = diffOf w.target w.bestCount ∧ w.bestDiff.toNat < 2 ^ 31

/-- The invariant of the machine: STATUS is legal; a command in execution has INIT = 1 (R173); CAL_COUNT and
CAL_DIFF are below 2^31 (R31); the working state is legal while CALRES scans; SIM is in canonical form. -/
structure Inv (s : State) : Prop where
  status : StatusInv s
  init : s.phase ≠ .idle → s.init = true
  calCount : s.calCount.toNat < 2 ^ 31
  calDiff : s.calDiff.toNat < 2 ^ 31
  scan : ∀ d p, s.phase = .exec (.calres d p) → p.scanning = true → ScanInv d p s.work
  sim : s.sensor.mem.wf = true

/-! ## Codes -/

/-- The codes a command may end with: the "raised by" column of R171. -/
def mayEndWith : Instr → Code → Bool
  | .begin, c => c == .ok || c == .configError
  | .mshift _, c => c == .ok
  | .rdf _ _, c => c == .ok || c == .notInit || c == .transportError
  | .wrf _ _ _, c => c == .ok || c == .notInit || c == .transportError
  | .calrco, c => c == .ok || c == .notInit || c == .poweredDown || c == .calFail || c == .transportError
  | .calres _, c =>
    c == .ok || c == .notInit || c == .poweredDown || c == .calFail || c == .transportError ||
      c == .countOverflow
  | .rstdef, c => c == .ok || c == .notInit || c == .transportError
  | .rdenergy, c => c == .ok || c == .notInit || c == .transportError

/-- The commands that use the bus and so need INIT = 1 (R173). -/
def usesBus : Instr → Bool
  | .begin => false
  | .mshift _ => false
  | .rdf _ _ => true
  | .wrf _ _ _ => true
  | .calrco => true
  | .calres _ => true
  | .rstdef => true
  | .rdenergy => true

/-- The commands that return a value in RESULT (R25). -/
def returnsResult : Instr → Bool
  | .begin => false
  | .mshift _ => true
  | .rdf _ _ => true
  | .wrf _ _ _ => false
  | .calrco => false
  | .calres _ => false
  | .rstdef => false
  | .rdenergy => true

/-- CALRES, the one command that writes CAL_SETTING, CAL_COUNT, CAL_DIFF and the working state (R23, R33). -/
def isCalres : Instr → Bool
  | .begin => false
  | .mshift _ => false
  | .rdf _ _ => false
  | .wrf _ _ _ => false
  | .calrco => false
  | .calres _ => true
  | .rstdef => false
  | .rdenergy => false

/-- The commands that perform no write transaction. -/
def neverWritesSensor : Instr → Bool
  | .begin => true
  | .mshift _ => true
  | .rdf _ _ => true
  | .wrf _ _ _ => false
  | .calrco => false
  | .calres _ => false
  | .rstdef => false
  | .rdenergy => true

/-- The sensor addresses a command writes to. -/
def storesAt : Instr → Addr → Bool
  | .begin, _ => false
  | .mshift _, _ => false
  | .rdf _ _, _ => false
  | .wrf a _ _, a' => a' == a
  | .calrco, a' => a' == fCalibRco.addr || a' == fDispSrco.addr
  | .calres _, a' => a' == fDivRatio.addr || a' == fTuneCap.addr || a' == fDispLco.addr
  | .rstdef, a' => a' == fPresetDefault.addr
  | .rdenergy, _ => false

/-! ## Source lines (R78, R79) -/

/-- What the assembler makes of a line with the mnemonic k: the word, as a number, that `accepts` relates to the
line's operands, and a refusal where it relates none to them. -/
def assemblesBy (k : Text) (accepts : List Text → Nat → Prop) : Prop :=
  ∀ line : Text, mnemonicOf (code line) = k →
    (∀ w : Word, assembleLine line = .word w ↔ accepts (operandsOf (code line)) w.toNat) ∧
    ((∀ n, ¬ accepts (operandsOf (code line)) n) → assembleLine line = .refused)

/-! ## Answers that make a window (R123) -/

/-- The answers of one `countEdges()`: the first clock read, the reference sample, the clock read and the pin
sample of each round of the loop, and the clock read that ends it. -/
structure Window where
  start : Draw
  reference : Draw
  loops : List (Draw × Draw)
  stop : Draw
  deriving DecidableEq, Repr

/-- The answers of the rounds of the loop, in order. -/
def loopAnswers : List (Draw × Draw) → List Draw
  | [] => []
  | (c, p) :: rest => c :: p :: loopAnswers rest

def Window.answers (w : Window) : List Draw := w.start :: w.reference :: (loopAnswers w.loops ++ [w.stop])

/-- Every clock read of the loop but the last shows less than WINDOW_MS, and the last at least that. -/
def Window.closes (w : Window) : Bool :=
  w.loops.all (fun l => windowOpen l.1.millis w.start.millis) && !windowOpen w.stop.millis w.start.millis

/-- `(t - t0) mod 2^32` at each clock read of the window, in order. -/
def Window.elapsed (w : Window) : List Nat :=
  (w.loops.map fun l => (l.1.millis - w.start.millis).toNat) ++ [(w.stop.millis - w.start.millis).toNat]

/-- CLOCK_MONOTONE of R185, a premise a claim may take: along the window the elapsed time does not decrease. -/
def Window.clockMonotone (w : Window) : Prop := w.elapsed.Pairwise (· ≤ ·)

/-- CLOCK_PROGRESS of R185 for this window: some clock read shows WINDOW_MS elapsed. -/
def Window.clockProgress (w : Window) : Prop := ∃ e ∈ w.elapsed, windowMs ≤ e

/-- The number of level changes, each sample against the one before it (R123). -/
def edges : Bool → List Bool → Nat
  | _, [] => 0
  | prev, l :: ls => (if l ≠ prev then 1 else 0) + edges l ls

/-- The count of the window, with the pin of configuration c. -/
def Window.count (c : Config) (w : Window) : Nat :=
  edges (pinLevel c w.reference) (w.loops.map fun l => pinLevel c l.2)

/-- The events of the rounds of the loop. -/
def loopEvents (c : Config) : List (Draw × Draw) → List Event
  | [] => []
  | (k, p) :: rest => .clk k.millis :: .pin (pinLevel c p) :: loopEvents c rest

/-- The trace of the window (R123). -/
def Window.events (c : Config) (w : Window) : List Event :=
  .clk w.start.millis :: .pin (pinLevel c w.reference) :: (loopEvents c w.loops ++ [.clk w.stop.millis])

/-! ## Answers that make a whole CALRES (R130) -/

/-- The answers of one round of the scan, named by R130's steps: `aRd` answers the read of step a, and so on. -/
structure ScanRound where
  aRd : Draw
  aWr : Draw
  b : Draw
  cRd : Draw
  cWr : Draw
  d : Draw
  e : Window
  fRd : Draw
  fWr : Draw
  deriving DecidableEq, Repr

def ScanRound.answers (r : ScanRound) : List Draw :=
  r.aRd :: r.aWr :: r.b :: r.cRd :: r.cWr :: r.d :: (r.e.answers ++ [r.fRd, r.fWr])

/-- The answers of a whole CALRES: the power check, step 1, the rounds of the scan, step 3. -/
structure ScanAnswers where
  power : Draw
  divRd : Draw
  divWr : Draw
  rounds : List ScanRound
  bestRd : Draw
  bestWr : Draw
  deriving DecidableEq, Repr

def roundsAnswers : List ScanRound → List Draw
  | [] => []
  | r :: rest => r.answers ++ roundsAnswers rest

def ScanAnswers.answers (a : ScanAnswers) : List Draw :=
  a.power :: a.divRd :: a.divWr :: (roundsAnswers a.rounds ++ [a.bestRd, a.bestWr])

/-- The counts of the 16 windows. -/
def ScanAnswers.counts (c : Config) (a : ScanAnswers) : List Nat := a.rounds.map fun r => r.e.count c

/-- The transport answers Ok: always under SIM, as the draw says under the free oracle (R53, R54). -/
def Sensor.grants (m : Sensor) (d : Draw) : Bool := m.writeAnswer d

def ScanRound.granted (m : Sensor) (r : ScanRound) : Bool :=
  m.grants r.aRd && m.grants r.aWr && m.grants r.cRd && m.grants r.cWr && m.grants r.fRd && m.grants r.fWr

/-- A scan that meets no error: 16 rounds, every transaction granted, every window closed by the clock
(CLOCK_PROGRESS of R185) and its count within 31 bits (R128). -/
def ScanAnswers.complete (c : Config) (m : Sensor) (a : ScanAnswers) : Bool :=
  a.rounds.length == nTune && m.grants a.power && m.grants a.divRd && m.grants a.divWr &&
    a.rounds.all (fun r => r.granted m && r.e.closes && decide (r.e.count c < 2 ^ 31)) &&
    m.grants a.bestRd && m.grants a.bestWr

/-- `abs(target - count)` as a number (R128). -/
def distance (target count : Nat) : Nat := ((target : Int) - (count : Int)).natAbs

/-- k is the first of the settings whose count is nearest the target (R129). -/
def FirstNearest (target : Nat) (counts : List Nat) (k : Nat) : Prop :=
  ∃ h : k < counts.length,
    (∀ j (hj : j < counts.length), distance target counts[k] ≤ distance target counts[j]) ∧
    (∀ j (hj : j < k), distance target counts[k] < distance target (counts[j]'(Nat.lt_trans hj h)))

/-- The events of one round of the scan at setting i under the free oracle, where each read answers its draw's
byte (R130, steps a to f). -/
def ScanRound.events (c : Config) (i : Nat) (r : ScanRound) : List Event :=
  .rd 0x08 (some r.aRd.byte) :: .wr 0x08 ((r.aRd.byte &&& 0xF0) ||| BitVec.ofNat 8 i) true ::
  .dly c.tuneSettleB ::
  .rd 0x08 (some r.cRd.byte) :: .wr 0x08 (r.cRd.byte ||| 0x80) true ::
  .dly c.tuneSettleD ::
  (r.e.events c ++
    [.rd 0x08 (some r.fRd.byte), .wr 0x08 (r.fRd.byte &&& 0x7F) true])

/-- The events of the rounds from setting i on. -/
def roundsEvents (c : Config) : Nat → List ScanRound → List Event
  | _, [] => []
  | i, r :: rest => r.events c i ++ roundsEvents c (i + 1) rest

/-- The events of a whole CALRES d under the free oracle that writes back setting k (R130). -/
def ScanAnswers.events (c : Config) (d : BitVec 2) (k : Nat) (a : ScanAnswers) : List Event :=
  .rd 0x00 (some a.power.byte) ::
  .rd 0x03 (some a.divRd.byte) ::
  .wr 0x03 ((a.divRd.byte &&& 0x3F) ||| (d.setWidth 8 <<< 6)) true ::
  (roundsEvents c 0 a.rounds ++
    [.rd 0x08 (some a.bestRd.byte), .wr 0x08 ((a.bestRd.byte &&& 0xF0) ||| BitVec.ofNat 8 k) true])

/-- A transaction that answered Err. -/
def Event.failed : Event → Bool
  | .rd _ answer => answer.isNone
  | .wr _ _ ok => !ok
  | .clk _ => false
  | .pin _ => false
  | .dly _ => false

/-- A transaction of the trace. -/
def Event.isTransaction : Event → Bool
  | .rd _ _ => true
  | .wr _ _ _ => true
  | .clk _ => false
  | .pin _ => false
  | .dly _ => false

/-- A delay of the trace. -/
def Event.isDelay : Event → Bool
  | .rd _ _ => false
  | .wr _ _ _ => false
  | .clk _ => false
  | .pin _ => false
  | .dly _ => true

/-- The inputs that answer one event each. -/
def answering (ds : List Draw) : List Input := ds.map .answer

end Sys2Proof.Machine
end

