-- ==== Sys2Proof/Certificates/Slice0/Obligations.lean ====
section
/-! DEFINITION. The statements about the model, from the numbered rules of spec/. Each docstring names the rule it
formalises, or says that it rests on a choice of the model. A statement that gives the state after a command as
`{ s with … }` states the command's frame too: every field not named there is as before.

`s.inputs = .answer d :: rest` says that the port the block asks next answers with the draw d. Under either
transport oracle the answer to a read is `s.sensor.readAnswer a d` (`none` is Err) and a write is answered Ok when
`s.sensor.writeAnswer d` (spec/20_memory.md R53, R54); both are free under the free oracle. -/

open Sys2Proof Sys2Proof.Machine

/-! ## Encoding (spec/30_encoding.md) -/

/-- Words written out from the spec's encodings, and words the spec lists as ILLEGAL, decode to what they are
(spec/95_test_vectors.md §2.2, §2.8). The name of the reason is the decoder's own (assumption log 20). -/
def Obligations.SpecWordsDecode : Prop :=
  decode 0x10000000 = .ok .begin ∧
  decode 0x20007000 = .ok (.mshift 0x70) ∧
  decode 0x30017000 = .ok (.rdf 0x01 0x70) ∧
  decode 0x303FFF00 = .ok (.rdf 0x3F 0xFF) ∧
  decode 0x40017005 = .ok (.wrf 0x01 0x70 0x05) ∧
  decode 0x403FFFFF = .ok (.wrf 0x3F 0xFF 0xFF) ∧
  decode 0x50000000 = .ok .calrco ∧
  decode 0x60000002 = .ok (.calres 2) ∧
  decode 0x70000000 = .ok .rstdef ∧
  decode 0x80000000 = .ok .rdenergy ∧
  decode 0x00000000 = .error .reservedOpcode ∧
  decode 0x90000000 = .error .reservedOpcode ∧
  decode 0x10400000 = .error .reservedBits ∧
  decode 0x44000000 = .error .reservedBits ∧
  decode 0x20010000 = .error .mustBeZero ∧
  decode 0x60000004 = .error .mustBeZero

/-- Decoding the word of any command gives the command back, every operand at every value (R71 to R74). -/
def Obligations.DecodeOfEncode : Prop :=
  ∀ i : Instr, i.wellFormed = true → decode (encode i) = .ok i

/-- A word that decodes to a command is that command's word: no two words mean the same command (R73, R75). -/
def Obligations.EncodeOfDecode : Prop :=
  ∀ (w : Word) (i : Instr), decode w = .ok i → encode i = w

/-- R74: every word is exactly one of the eight commands or ILLEGAL; the row that selects the word decides, and no
two rows select one word. -/
def Obligations.DecodeTotalByDisjointRows : Prop :=
  (opRows.length = 8 ∧ opRows.Pairwise fun r r' => r.mnemonic ≠ r'.mnemonic) ∧
  ∀ w : Word,
    (∀ r ∈ opRows, ∀ r' ∈ opRows, r.selects w = true → r'.selects w = true → r = r') ∧
    (∀ r ∈ opRows, r.selects w = true → decode w = .ok (operands r.mnemonic w)) ∧
    ((∀ r ∈ opRows, r.selects w = false) → ∃ e, decode w = .error e)

/-- R72: no operand field is extended, scaled or shifted; DIV is VAL[1:0] and the ratio is 16 << DIV. -/
def Obligations.OperandAssembly : Prop :=
  ∀ w : Word,
    (∀ m, decode w = .ok (.mshift m) → m.toNat = w.toNat / 2 ^ 8 % 256) ∧
    (∀ a m, decode w = .ok (.rdf a m) →
      a.toNat = w.toNat / 2 ^ 16 % 64 ∧ m.toNat = w.toNat / 2 ^ 8 % 256) ∧
    (∀ a m v, decode w = .ok (.wrf a m v) →
      a.toNat = w.toNat / 2 ^ 16 % 64 ∧ m.toNat = w.toNat / 2 ^ 8 % 256 ∧ v.toNat = w.toNat % 256) ∧
    (∀ d, decode w = .ok (.calres d) → d.toNat = w.toNat % 256 % 4 ∧ divRatio d = 16 * 2 ^ d.toNat)

/-- R75 with R174: a word is ILLEGAL exactly when OP is unassigned, RSV is non-zero, or a field that R73 marks
"must be 0" is non-zero. Taken from the host, even with INIT = 0, it performs no event and writes STATUS only. -/
def Obligations.IllegalWords : Prop :=
  (∀ w : Word, (∃ e, decode w = .error e) ↔
    ((opField w).toNat = 0 ∨ 9 ≤ (opField w).toNat) ∨ rsvField w ≠ 0 ∨
    (addrField w ≠ 0 ∧ opField w ≠ 3 ∧ opField w ≠ 4) ∨
    (maskField w ≠ 0 ∧ opField w ≠ 2 ∧ opField w ≠ 3 ∧ opField w ≠ 4) ∨
    (valField w ≠ 0 ∧ opField w ≠ 4 ∧ opField w ≠ 6) ∨
    (opField w = 6 ∧ 4 ≤ (valField w).toNat)) ∧
  (∀ (w : Word) (e : Illegal) (s : State) (ws : List Word),
    decode w = .error e → s.phase = .idle → (∀ b rest, s.inputs ≠ .reset b :: rest) → s.hostPort = w :: ws →
    step s = .next { s with hostPort := ws, trace := [], status := endStatus .illegal s.status })

/-- A word decodes exactly when its five fields, as numbers, pass the checks of WellFormed.lean (R71, R75, R78). -/
def Obligations.WellFormedFieldsDecode : Prop :=
  ∀ w : Word, (formatC w).wellFormed = true ↔ ∃ i, decode w = .ok i

/-! ## Assembler (spec/30_encoding.md R78 to R80) -/

/-- What the disassembler prints of a command assembles to the command's word (R78, R80). The spelling of the
printed line is the model's choice (assumption log 18). -/
def Obligations.AssembleOfDisassemble : Prop :=
  ∀ i : Instr, assembleLine (disassemble i) = .word (encode i)

/-- R78, R79 with R153: the assembler never truncates. A line with a command's mnemonic gives the word of R78's
table, computed from the numbers its operands write, exactly when each of them fits its field (a < 64, m < 256,
v < 256, d < 4, or one of CALRES's four symbols); a pseudo-instruction gives the word of its expansion exactly when
its operand is in the row's range; every other line with one of these mnemonics is refused. How a line is cut into
operands, and that WRGAIN takes its two values as numerals too, is the model's choice (assumption log 18); that the
four names of WRMINL and of WRDIV stand for codes 0 to 3 in this order is the spec's presumption (log 21). -/
def Obligations.AssemblerNeverTruncates : Prop :=
  (assemblesBy "BEGIN".toList fun ops n => ops = [] ∧ n = 0x10000000) ∧
  (assemblesBy "MSHIFT".toList fun ops n =>
    ∃ m x, ops = [m] ∧ numeral m = some x ∧ x < 256 ∧ n = 0x20000000 + x * 2 ^ 8) ∧
  (assemblesBy "RDF".toList fun ops n =>
    ∃ a m x y, ops = [a, m] ∧ numeral a = some x ∧ x < 64 ∧ numeral m = some y ∧ y < 256 ∧
      n = 0x30000000 + x * 2 ^ 16 + y * 2 ^ 8) ∧
  (assemblesBy "WRF".toList fun ops n =>
    ∃ a m v x y z, ops = [a, m, v] ∧ numeral a = some x ∧ x < 64 ∧ numeral m = some y ∧ y < 256 ∧
      numeral v = some z ∧ z < 256 ∧ n = 0x40000000 + x * 2 ^ 16 + y * 2 ^ 8 + z) ∧
  (assemblesBy "CALRCO".toList fun ops n => ops = [] ∧ n = 0x50000000) ∧
  (assemblesBy "CALRES".toList fun ops n =>
    ∃ d x, ops = [d] ∧
      (numeral d = some x ∨ d = "DIV16".toList ∧ x = 0 ∨ d = "DIV32".toList ∧ x = 1 ∨
        d = "DIV64".toList ∧ x = 2 ∨ d = "DIV128".toList ∧ x = 3) ∧
      x < 4 ∧ n = 0x60000000 + x) ∧
  (assemblesBy "RSTDEF".toList fun ops n => ops = [] ∧ n = 0x70000000) ∧
  (assemblesBy "RDENERGY".toList fun ops n => ops = [] ∧ n = 0x80000000) ∧
  ∀ p ∈ pseudoRows,
    (p.access = .read →
      assemblesBy p.name fun ops n =>
        ops = [] ∧ n = 0x30000000 + p.field.addr.toNat * 2 ^ 16 + p.field.mask.toNat * 2 ^ 8) ∧
    (∀ allowed syms, p.access = .write allowed syms →
      assemblesBy p.name fun ops n =>
        ∃ o x, ops = [o] ∧ (numeral o = some x ∨ (o, x) ∈ syms) ∧ x ∈ allowed ∧
          n = 0x40000000 + p.field.addr.toNat * 2 ^ 16 + p.field.mask.toNat * 2 ^ 8 + x)

/-- The register map is R35's, bit for bit: address, mask, shift and width of each field, in the order of the table
(POWER_DOWN to CALIB_RCO, the model's names beside them); a shift is maskShift of the mask and a width the number of
its set bits. The pseudo-instructions are R79's, each with its address, its mask, the values it accepts and the
names it knows for them; each accesses a field of the map, and `WRNFL 3` is the word 0x40017003 (R80). That WRGAIN
takes its two values as numerals too is the model's choice (assumption log 18); which of WRMINL's and WRDIV's codes
stands for which name is the spec's presumption (log 21). -/
def Obligations.RegisterMapAndPseudoInstructions : Prop :=
  (registerMap.map fun r => (r.field.addr.toNat, r.field.mask.toNat, r.shift, r.width)) = [
    (0x00, 0x01, 0, 1), (0x00, 0x3E, 1, 5), (0x01, 0x0F, 0, 4), (0x01, 0x70, 4, 3), (0x02, 0x0F, 0, 4),
    (0x02, 0x30, 4, 2), (0x02, 0x40, 6, 1), (0x03, 0x0F, 0, 4), (0x03, 0x20, 5, 1), (0x03, 0xC0, 6, 2),
    (0x04, 0xFF, 0, 8), (0x05, 0xFF, 0, 8), (0x06, 0x0F, 0, 4), (0x07, 0x3F, 0, 6), (0x08, 0x0F, 0, 4),
    (0x08, 0x20, 5, 1), (0x08, 0x40, 6, 1), (0x08, 0x80, 7, 1), (0x3A, 0x40, 6, 1), (0x3B, 0x40, 6, 1),
    (0x3C, 0xFF, 0, 8), (0x3D, 0xFF, 0, 8)] ∧
  (registerMap.map fun r => r.field) = [
    fPowerDown, fAfeGain, fWdogTh, fNoiseFloor, fSpikeRej, fMinLightning, fClearStats, fIntSrc, fMaskDist,
    fDivRatio, fEnergyL, fEnergyM, fEnergyMM, fDistance, fTuneCap, fDispTrco, fDispSrco, fDispLco, fTrcoNok,
    fSrcoNok, fPresetDefault, fCalibRco] ∧
  (∀ r ∈ registerMap, (maskShift r.field.mask).toNat = r.shift ∧
    ((List.range 8).filter r.field.mask.getLsbD).length = r.width) ∧
  (∀ p ∈ pseudoRows, ∃ r ∈ registerMap, r.field = p.field) ∧
  (pseudoRows.map fun p => (p.name, p.field.addr.toNat, p.field.mask.toNat, p.access)) = [
    ("RDPWD".toList, 0x00, 0x01, .read), ("WRPWD".toList, 0x00, 0x01, .write [0, 1] []),
    ("RDGAIN".toList, 0x00, 0x3E, .read),
    ("WRGAIN".toList, 0x00, 0x3E, .write [0x12, 0x0E] [("INDOOR".toList, 0x12), ("OUTDOOR".toList, 0x0E)]),
    ("RDWDTH".toList, 0x01, 0x0F, .read),
    ("WRWDTH".toList, 0x01, 0x0F, .write [0, 1, 2, 3, 4, 5, 6, 7, 8, 9, 10] []),
    ("RDNFL".toList, 0x01, 0x70, .read), ("WRNFL".toList, 0x01, 0x70, .write [0, 1, 2, 3, 4, 5, 6, 7] []),
    ("RDSREJ".toList, 0x02, 0x0F, .read),
    ("WRSREJ".toList, 0x02, 0x0F, .write [0, 1, 2, 3, 4, 5, 6, 7, 8, 9, 10] []),
    ("RDMINL".toList, 0x02, 0x30, .read),
    ("WRMINL".toList, 0x02, 0x30, .write [0, 1, 2, 3]
      [("MINL1".toList, 0), ("MINL5".toList, 1), ("MINL9".toList, 2), ("MINL16".toList, 3)]),
    ("RDCLSTAT".toList, 0x02, 0x40, .read), ("WRCLSTAT".toList, 0x02, 0x40, .write [0, 1] []),
    ("RDINT".toList, 0x03, 0x0F, .read),
    ("RDMDIST".toList, 0x03, 0x20, .read), ("WRMDIST".toList, 0x03, 0x20, .write [0, 1] []),
    ("RDDIV".toList, 0x03, 0xC0, .read),
    ("WRDIV".toList, 0x03, 0xC0, .write [0, 1, 2, 3]
      [("DIV16".toList, 0), ("DIV32".toList, 1), ("DIV64".toList, 2), ("DIV128".toList, 3)]),
    ("RDDIST".toList, 0x07, 0x3F, .read),
    ("RDTUNE".toList, 0x08, 0x0F, .read),
    ("WRTUNE".toList, 0x08, 0x0F, .write [0, 1, 2, 3, 4, 5, 6, 7, 8, 9, 10, 11, 12, 13, 14, 15] []),
    ("RDDTRCO".toList, 0x08, 0x20, .read), ("WRDTRCO".toList, 0x08, 0x20, .write [0, 1] []),
    ("RDDSRCO".toList, 0x08, 0x40, .read), ("WRDSRCO".toList, 0x08, 0x40, .write [0, 1] []),
    ("RDDLCO".toList, 0x08, 0x80, .read), ("WRDLCO".toList, 0x08, 0x80, .write [0, 1] []),
    ("RDTRCONOK".toList, 0x3A, 0x40, .read), ("RDSRCONOK".toList, 0x3B, 0x40, .read)] ∧
  assembleLine "WRNFL 3".toList = .word 0x40017003 ∧
  assembleLine "WRNFL 8".toList = .refused ∧
  assembleLine "WRGAIN INDOOR".toList = .word 0x40003E12

/-! ## The step -/

/-- A step in IDLE, with no reset asserted: the word the host offers is taken and, if it decodes, executed; with no
word offered nothing changes (spec/30_encoding.md R70, spec/70_reset_and_hazards.md R196; that the offered words are a
list, and that an idle step is a step, is the model's choice, assumption log 11). -/
def Obligations.StepRunsDecodedCommand : Prop :=
  ∀ s : State, s.phase = .idle → (∀ b rest, s.inputs ≠ .reset b :: rest) →
    (∀ w ws i, s.hostPort = w :: ws → decode w = .ok i → step s = exec i { s with hostPort := ws }) ∧
    (s.hostPort = [] → step s = .next s)

/-- While BUSY, with no reset asserted, a step goes on with the command in execution (spec/10_state.md R32), and a word
offered is not taken and changes nothing (spec/70_reset_and_hazards.md R206): the step is the same, but for the
words, which all stay offered. That one step goes on as far as the answers go is the model's choice (assumption
log 7). -/
def Obligations.BusyBlockTakesNoWord : Prop :=
  ∀ (s : State) (r : Running) (ws : List Word),
    s.phase = .exec r → (∀ b rest, s.inputs ≠ .reset b :: rest) →
    step s = .next (resume s) ∧ (resume s).hostPort = s.hostPort ∧
      step { s with hostPort := ws } = .next { resume s with hostPort := ws }

/-- Every step of every state has a next state. R170 and R182 say that the block has no trap and goes on after any
status; that a step which waits for a port, hangs in a window, or finds nothing to do is a step with a next state
too, never a fault or a refusal, is the model's choice (assumption log 13, with 2 for a waiting step and 11 for an
idle one). -/
def Obligations.EveryStepHasNextState : Prop :=
  ∀ s : State, ∃ t, step s = .next t

/-- A command that uses the bus begins as EXEC(op, 0) with BUSY = 1, and waits there, with no event performed and
no other register written, until its first port answers (spec/10_state.md R32). That an empty list of inputs means
"no answer yet" is the model's choice (assumption log 2). -/
def Obligations.BusCommandBeginsAndWaits : Prop :=
  ∀ (i : Instr) (s : State), usesBus i = true → s.init = true → s.inputs = [] →
    ∃ r : Running, r.op = i ∧ r.index = 0 ∧
      exec i s = .next { s with trace := [], phase := .exec r, status := startStatus s.status }

/-- Running a command on answers given in two parts is running it on all of them: where the answers are cut shows
in nothing (spec/42_calibration.md R133: what a command does is determined by the answers in order). That one step
runs as far as the answers go is the model's choice (assumption log 7). -/
def Obligations.AnswersInPartsAreAnswersAtOnce : Prop :=
  ∀ (s : State) (ds : List Draw) (ys : List Input),
    resume { s with inputs := answering ds ++ ys } =
      resume { resume { s with inputs := answering ds } with
        inputs := (resume { s with inputs := answering ds }).inputs ++ ys }

/-! ## Reset (spec/70_reset_and_hazards.md) -/

/-- Reset sets every block register to its reset value and PHASE to IDLE and leaves the configuration; it is the only
way to clear STICKY (spec/70_reset_and_hazards.md R195). That it leaves the working state as it was is the model's
choice (assumption log 6; the spec gives no value there, R33), and so are that it leaves the trace (log 8), and the
offered words and the later inputs (log 10, 11). -/
def Obligations.ResetValuesAndSticky : Prop :=
  (∀ (s : State) (b : Bool) (rest : List Input), s.inputs = .reset b :: rest →
    ∃ t, step s = .next t ∧ t.status = 0x00 ∧ t.result = 0 ∧ t.calSetting = 0 ∧ t.calCount = 0 ∧
      t.calDiff = 0 ∧ t.calSuccess = false ∧ t.init = false ∧ t.phase = .idle ∧ t.config = s.config ∧
      t.work = s.work ∧ t.hostPort = s.hostPort ∧ t.trace = s.trace ∧ t.inputs = rest) ∧
  (∀ s t : State, (∀ b rest, s.inputs ≠ .reset b :: rest) → step s = .next t →
    statusSticky s.status = true → statusSticky t.status = true)

/-- The state right after reset: every block register at the value of R23 and R24, PHASE = IDLE, and the host
reads 0 at every number (as a 32-bit word: assumption log 23). The machine's other fields have values the model chose
(assumption log 3, 6, 9, 11). -/
def Obligations.StateAfterReset : Prop :=
  State.reset.status = 0x00 ∧ State.reset.result = 0 ∧ State.reset.calSetting = 0 ∧
  State.reset.calCount = 0 ∧ State.reset.calDiff = 0 ∧ State.reset.calSuccess = false ∧
  State.reset.init = false ∧ State.reset.phase = .idle ∧ ∀ n : Byte, hostRead State.reset n = 0

/-- Reset during a command acts between two events (R197): the command runs up to the reset and stands there with
its events performed; the reset then leaves what was stored in the sensor, and a write that it cuts may have reached
the sensor or not. A reset that cuts no write (it meets a read, a clock read, a pin sample or a delay, or no command)
leaves the sensor as it was, whatever the bit says: it performs no transaction (R198). R197 admits both outcomes of a
cut write; the bit that tells them apart, and that only SIM can hold the byte, is the model's (assumption
log 10). -/
def Obligations.ResetActsBetweenEvents : Prop :=
  (∀ (s : State) (ds : List Draw) (b : Bool) (rest : List Input) (r : Running),
    (resume { s with inputs := answering ds }).phase = .exec r →
    resume { s with inputs := answering ds ++ .reset b :: rest } =
      { resume { s with inputs := answering ds } with inputs := .reset b :: rest } ∧
    step { resume { s with inputs := answering ds } with inputs := .reset false :: rest } =
      .next (blockReset { resume { s with inputs := answering ds } with inputs := rest }) ∧
    (∀ a v k, action r (resume { s with inputs := answering ds }) = .wr a v k →
      step { resume { s with inputs := answering ds } with inputs := .reset true :: rest } =
        .next (blockReset { resume { s with inputs := answering ds } with
          inputs := rest
          sensor := (resume { s with inputs := answering ds }).sensor.store a v })) ∧
    ((∀ a v k, action r (resume { s with inputs := answering ds }) ≠ .wr a v k) →
      step { resume { s with inputs := answering ds } with inputs := .reset true :: rest } =
        .next (blockReset { resume { s with inputs := answering ds } with inputs := rest }))) ∧
  ∀ (s : State) (b : Bool) (rest : List Input), s.phase = .idle →
    step { s with inputs := .reset b :: rest } = .next (blockReset { s with inputs := rest })

/-! ## Registers (spec/10_state.md, spec/60_exceptions.md) -/

/-- The host's register read (R23, R24, R30): narrow registers zero-extended, reserved bits and register numbers 7
to 255 read as 0. That every read is a 32-bit word, with zeros above the 8 bits R23 gives registers 0, 2, 5 and 6, is
the model's choice (assumption log 23). -/
def Obligations.HostRegisterRead : Prop :=
  ∀ s : State,
    (hostRead s 0).toNat =
      (statusCode s.status).toNat + (if statusBusy s.status then 16 else 0) +
        (if statusSticky s.status then 128 else 0) ∧
    hostRead s 1 = s.result ∧
    (hostRead s 2).toNat = s.calSetting.toNat ∧
    hostRead s 3 = s.calCount ∧
    hostRead s 4 = s.calDiff ∧
    hostRead s 5 = (if s.calSuccess then 1 else 0) ∧
    hostRead s 6 = (if s.init then 1 else 0) ∧
    ∀ n : Byte, 7 ≤ n.toNat → hostRead s n = 0

/-- R172: ending a command with a code writes CODE, sets STICKY unless the code is OK, clears CAL_SUCCESS for a
calibration that failed, and returns to IDLE with BUSY = 0; every other field keeps its value. -/
def Obligations.EndingACommand : Prop :=
  ∀ (op : Instr) (c : Code) (s : State),
    statusCode (endCommand (some op) c s).status = c.bits ∧
    statusSticky (endCommand (some op) c s).status = (statusSticky s.status || decide (c ≠ .ok)) ∧
    statusBusy (endCommand (some op) c s).status = false ∧
    statusReserved (endCommand (some op) c s).status = statusReserved s.status ∧
    (endCommand (some op) c s).calSuccess =
      (if isCalibration op = true ∧
          (c = .poweredDown ∨ c = .calFail ∨ c = .transportError ∨ c = .countOverflow)
        then false else s.calSuccess) ∧
    ∃ st cs, endCommand (some op) c s = { s with status := st, calSuccess := cs, phase := .idle }

/-- R173: the six commands that use the bus raise NOT_INIT while INIT = 0, with an empty trace and STATUS the only
register written; BEGIN and MSHIFT never raise it. -/
def Obligations.NotInitialised : Prop :=
  (∀ (i : Instr) (s : State), usesBus i = true → s.init = false →
    exec i s = .next { s with trace := [], status := endStatus .notInit s.status, phase := .idle }) ∧
  (∀ (i : Instr) (s t : State), usesBus i = false → exec i s = .next t →
    statusCode t.status ≠ Code.bits .notInit)

/-- The registers a command may write (the "written by" column of R23, with R28 and R33): for every command, from
every state, however far it has run. A command that performs no write leaves the sensor as it was, and under SIM no
byte changes but at the addresses the command writes to: WRF its own, CALRCO 0x3D and 0x08, CALRES 0x03 and 0x08,
RSTDEF 0x3C. -/
def Obligations.RegisterWriters : Prop :=
  ∀ (i : Instr) (s t : State), exec i s = .next t →
    t.config = s.config ∧ t.hostPort = s.hostPort ∧
    (i ≠ .begin → t.init = s.init) ∧
    (returnsResult i = false → t.result = s.result) ∧
    (isCalibration i = false → t.calSuccess = s.calSuccess) ∧
    (isCalres i = false →
      t.calSetting = s.calSetting ∧ t.calCount = s.calCount ∧ t.calDiff = s.calDiff ∧ t.work = s.work) ∧
    (neverWritesSensor i = true → t.sensor = s.sensor) ∧
    (s.sensor.mem.wf = true → ∀ a, storesAt i a = false →
      Memory.read t.sensor.mem a = Memory.read s.sensor.mem a)

/-- RESULT is written only by a command that finishes with OK (R25): a command that finishes with any other code,
or is still in execution, leaves RESULT unchanged. -/
def Obligations.ResultKeptUnlessOk : Prop :=
  ∀ (i : Instr) (s t : State), exec i s = .next t →
    t.phase ≠ .idle ∨ statusCode t.status ≠ Code.bits .ok → t.result = s.result

/-- CAL_SUCCESS after a calibration (R27, R172, R173): 1 exactly when it finished with OK; unchanged on NOT_INIT
and while it is in execution. -/
def Obligations.CalSuccessFollowsCode : Prop :=
  ∀ (i : Instr) (s t : State), isCalibration i = true → exec i s = .next t →
    (t.phase ≠ .idle → t.calSuccess = s.calSuccess) ∧
    (t.phase = .idle → statusCode t.status = Code.bits .notInit → t.calSuccess = s.calSuccess) ∧
    (t.phase = .idle → statusCode t.status ≠ Code.bits .notInit →
      (t.calSuccess = true ↔ statusCode t.status = Code.bits .ok))

/-- CAL_SETTING, CAL_COUNT and CAL_DIFF change only in a CALRES that completed its scan and its write-back, which
is one that finished with OK or CAL_FAIL (R26, R172). -/
def Obligations.CalRegistersKeptOnError : Prop :=
  ∀ (d : BitVec 2) (s t : State), exec (.calres d) s = .next t →
    (t.phase ≠ .idle ∨
      (statusCode t.status ≠ Code.bits .ok ∧ statusCode t.status ≠ Code.bits .calFail)) →
    t.calSetting = s.calSetting ∧ t.calCount = s.calCount ∧ t.calDiff = s.calDiff

/-- The codes each command may end with: the "raised by" column of R171. -/
def Obligations.CodesByCommand : Prop :=
  ∀ (i : Instr) (s t : State), exec i s = .next t → t.phase = .idle →
    ∃ c : Code, mayEndWith i c = true ∧ statusCode t.status = c.bits

/-- R176: a transaction answered Err is the last event of its command, which ends there with TRANSPORT_ERROR; and a
command ends with TRANSPORT_ERROR only so. -/
def Obligations.FailedTransactionEndsCommand : Prop :=
  ∀ (i : Instr) (s t : State), exec i s = .next t →
    (∀ e ∈ t.trace.dropLast, e.failed = false) ∧
    (t.phase ≠ .idle → ∀ e ∈ t.trace, e.failed = false) ∧
    (t.phase = .idle →
      (statusCode t.status = Code.bits .transportError ↔ ∃ e, t.trace.getLast? = some e ∧ e.failed = true))

/-! ## Transport (spec/40_transport.md) -/

/-- R90 with R92 and R93: BEGIN performs no event; under the I2C variant a BUS_ADDR outside I2C_SUBADDR_OK gives
CONFIG_ERROR and INIT = 0; every other BEGIN gives OK and INIT = 1, and under SPI BUS_ADDR is not checked. -/
def Obligations.BeginMeaning : Prop :=
  encode .begin = 0x10000000 ∧
  ∀ s : State,
    (s.config.xportSel = .i2c →
      ¬ (s.config.busAddr.toNat < 4 ∧ s.config.busAddr.toNat ≠ s.config.i2cRefused.toNat) →
      exec .begin s =
        .next { s with init := false, trace := [], status := endStatus .configError s.status, phase := .idle }) ∧
    (s.config.xportSel = .i2c →
      s.config.busAddr.toNat < 4 ∧ s.config.busAddr.toNat ≠ s.config.i2cRefused.toNat →
      exec .begin s =
        .next { s with init := true, trace := [], status := endStatus .ok s.status, phase := .idle }) ∧
    (s.config.xportSel = .spi →
      exec .begin s =
        .next { s with init := true, trace := [], status := endStatus .ok s.status, phase := .idle })

/-- R94: BEGIN is idempotent: in two states of one configuration it gives the same INIT and the same CODE, a second
BEGIN changes nothing, and BEGIN resets no other block register and does not clear STICKY. -/
def Obligations.BeginIdempotent : Prop :=
  ∀ s s' : State, s.config = s'.config →
    ∃ t t', exec .begin s = .next t ∧ exec .begin s' = .next t' ∧
      t.init = t'.init ∧ statusCode t.status = statusCode t'.status ∧
      exec .begin t = .next t ∧
      t.result = s.result ∧ t.calSetting = s.calSetting ∧ t.calCount = s.calCount ∧ t.calDiff = s.calDiff ∧
      t.calSuccess = s.calSuccess ∧ (statusSticky s.status = true → statusSticky t.status = true)

/-- I2C_SUBADDR_OK is exactly three of the four 2-bit values (R91), whichever one the configuration refuses; no
larger BUS_ADDR passes (R90). -/
def Obligations.ThreeSubaddressesPass : Prop :=
  ∀ c : Config, c.xportSel = .i2c →
    ∃ x y z : Byte, x ≠ y ∧ x ≠ z ∧ y ≠ z ∧ x.toNat < 4 ∧ y.toNat < 4 ∧ z.toNat < 4 ∧
      ∀ b : Byte, configOk { c with busAddr := b } = true ↔ b = x ∨ b = y ∨ b = z

/-- The SPI address byte (spec/20_memory.md R69): a write's is the address; a read's has the flag's bits set, bit 7
under the default flag. -/
def Obligations.SpiAddressByte : Prop :=
  ∀ (c : Config) (a : Addr),
    (spiAddressByte c false a).toNat = a.toNat ∧
    spiAddressByte c true a = c.spiReadFlag ||| a.setWidth 8 ∧
    (c.spiReadFlag = 0x80 → (spiAddressByte c true a).toNat = 128 + a.toNat)

/-- R52: outside BEGIN nothing reads XPORT_SEL: under either variant every command does the same, event for event. -/
def Obligations.TransportVariantInvisible : Prop :=
  ∀ (i : Instr) (s : State) (x : Xport), i ≠ .begin →
    ∃ t, exec i s = .next t ∧
      exec i { s with config := { s.config with xportSel := x } } =
        .next { t with config := { t.config with xportSel := x } }

/-! ## Bitfields (spec/41_bitfield.md) -/

/-- R100: maskShift is 0 for mask 0, and the index of the lowest set bit for every other mask. -/
def Obligations.MaskShiftIsLowestSetBit : Prop :=
  maskShift 0 = 0 ∧
  ∀ m : Byte, m ≠ 0 →
    m.getLsbD (maskShift m).toNat = true ∧ ∀ k, k < (maskShift m).toNat → m.getLsbD k = false

/-- R105: MSHIFT writes maskShift of its mask to RESULT, needs no INIT and performs no event. -/
def Obligations.MshiftMeaning : Prop :=
  ∀ (m : Byte) (s : State),
    encode (.mshift m) = 0x20000000 ||| (m.setWidth 32 <<< 8) ∧
    exec (.mshift m) s =
      .next { s with
        result := (maskShift m).setWidth 32
        trace := []
        status := endStatus .ok s.status
        phase := .idle } ∧
    (m = 0 → (maskShift m).toNat = 0) ∧ (m = 0x80 → (maskShift m).toNat = 7) ∧ (maskShift m).toNat ≤ 7

/-- R106 with R101: RDF checks INIT, reads its address once, and returns `(b & m) >> maskShift(m)`, which is 0 for
mask 0 and b for mask 0xFF, is below 2^(8 - maskShift(m)), and has a 1 only where `m >> maskShift(m)` has one. -/
def Obligations.RdfMeaning : Prop :=
  ∀ (a : Addr) (m : Byte) (s : State),
    encode (.rdf a m) = 0x30000000 ||| (a.setWidth 32 <<< 16) ||| (m.setWidth 32 <<< 8) ∧
    (s.init = false →
      exec (.rdf a m) s =
        .next { s with trace := [], status := endStatus .notInit s.status, phase := .idle }) ∧
    (s.init = true → ∀ d rest, s.inputs = .answer d :: rest →
      (∀ b, s.sensor.readAnswer a d = some b →
        exec (.rdf a m) s =
          .next { s with
            result := ((b &&& m) >>> (maskShift m).toNat).setWidth 32
            trace := [.rd a (some b)]
            status := endStatus .ok s.status
            phase := .idle
            inputs := rest }) ∧
      (s.sensor.readAnswer a d = none →
        exec (.rdf a m) s =
          .next { s with
            trace := [.rd a none]
            status := endStatus .transportError s.status
            phase := .idle
            inputs := rest })) ∧
    ∀ b : Byte,
      (m = 0 → (b &&& m) >>> (maskShift m).toNat = 0) ∧
      (m = 0xFF → (b &&& m) >>> (maskShift m).toNat = b) ∧
      ((b &&& m) >>> (maskShift m).toNat).toNat < 2 ^ (8 - (maskShift m).toNat) ∧
      ((b &&& m) >>> (maskShift m).toNat) &&& ~~~(m >>> (maskShift m).toNat) = 0

/-- R107 with R102: WRF checks INIT, reads its address and writes back `(b & ~m) | ((v << s) & m)`, always both; a
failed read issues no write; RESULT is unchanged. Mask 0 writes b back, mask 0xFF writes v. -/
def Obligations.WrfMeaning : Prop :=
  ∀ (a : Addr) (m v : Byte) (s : State),
    encode (.wrf a m v) =
      0x40000000 ||| (a.setWidth 32 <<< 16) ||| (m.setWidth 32 <<< 8) ||| v.setWidth 32 ∧
    (s.init = false →
      exec (.wrf a m v) s =
        .next { s with trace := [], status := endStatus .notInit s.status, phase := .idle }) ∧
    (s.init = true → ∀ d rest, s.inputs = .answer d :: rest → s.sensor.readAnswer a d = none →
      exec (.wrf a m v) s =
        .next { s with
          trace := [.rd a none]
          status := endStatus .transportError s.status
          phase := .idle
          inputs := rest }) ∧
    (s.init = true → ∀ d d' rest b b2, s.inputs = .answer d :: .answer d' :: rest →
      s.sensor.readAnswer a d = some b → b2 = (b &&& ~~~m) ||| ((v <<< (maskShift m).toNat) &&& m) →
      (s.sensor.writeAnswer d' = true →
        exec (.wrf a m v) s =
          .next { s with
            sensor := s.sensor.store a b2
            trace := [.rd a (some b), .wr a b2 true]
            status := endStatus .ok s.status
            phase := .idle
            inputs := rest }) ∧
      (s.sensor.writeAnswer d' = false →
        exec (.wrf a m v) s =
          .next { s with
            trace := [.rd a (some b), .wr a b2 false]
            status := endStatus .transportError s.status
            phase := .idle
            inputs := rest })) ∧
    ∀ b : Byte,
      (m = 0 → (b &&& ~~~m) ||| ((v <<< (maskShift m).toNat) &&& m) = b) ∧
      (m = 0xFF → (b &&& ~~~m) ||| ((v <<< (maskShift m).toNat) &&& m) = v)

/-- R103: the byte WRF writes keeps every bit outside the mask of the byte it read; and under SIM the program
`RDF a, 0xFF; WRF a, m, v; RDF a, 0xFF` gives equal unmasked bits. -/
def Obligations.FieldPreservation : Prop :=
  (∀ m v b : Byte,
    ((b &&& ~~~m) ||| ((v <<< (maskShift m).toNat) &&& m)) &&& ~~~m = b &&& ~~~m) ∧
  ∀ (a : Addr) (m v : Byte) (s : State) (mem : Memory) (d1 d2 d3 d4 : Draw) (rest : List Input),
    s.init = true → s.sensor = .sim mem → Memory.wf mem = true →
    s.inputs = answering [d1, d2, d3, d4] ++ rest →
    ∃ t u x, exec (.rdf a 0xFF) s = .next t ∧ exec (.wrf a m v) t = .next u ∧ exec (.rdf a 0xFF) u = .next x ∧
      t.phase = .idle ∧ u.phase = .idle ∧ x.phase = .idle ∧
      t.result &&& zext32 (~~~m) = x.result &&& zext32 (~~~m)

/-- R104: under SIM, `WRF a, m, v` then `RDF a, m` returns `((v << s) & m) >> s`, which is v exactly when every set
bit of v lands on a set bit of m; on a contiguous mask of w bits (0 for mask 0) that is `v < 2^w`; under the free
oracle no round trip is guaranteed. -/
def Obligations.FieldRoundTrip : Prop :=
  (∀ (a : Addr) (m v : Byte) (s : State) (mem : Memory) (d1 d2 d3 : Draw) (rest : List Input),
    s.init = true → s.sensor = .sim mem → Memory.wf mem = true → s.inputs = answering [d1, d2, d3] ++ rest →
    ∃ t u, exec (.wrf a m v) s = .next t ∧ exec (.rdf a m) t = .next u ∧ u.phase = .idle ∧
      statusCode u.status = Code.bits .ok ∧
      u.result.toNat = ((v.toNat <<< (maskShift m).toNat) &&& m.toNat) >>> (maskShift m).toNat ∧
      (u.result.toNat = v.toNat ↔
        (v.toNat <<< (maskShift m).toNat) &&& m.toNat = v.toNat <<< (maskShift m).toNat)) ∧
  (∀ (m v : Byte) (w : Nat), m.toNat = (2 ^ w - 1) <<< (maskShift m).toNat →
    ((v.toNat <<< (maskShift m).toNat) &&& m.toNat = v.toNat <<< (maskShift m).toNat ↔ v.toNat < 2 ^ w)) ∧
  (∃ (a : Addr) (m v : Byte) (s t u : State), s.init = true ∧ s.sensor = .oracle ∧ v.toNat < 2 ∧ m = 1 ∧
    exec (.wrf a m v) s = .next t ∧ exec (.rdf a m) t = .next u ∧
    statusCode t.status = Code.bits .ok ∧ statusCode u.status = Code.bits .ok ∧ u.result.toNat ≠ v.toNat)

/-- R110: under SIM, two WRFs to disjoint fields of one address leave both fields as written and the rest of the
byte unchanged. -/
def Obligations.SiblingFields : Prop :=
  ∀ (a : Addr) (m m' v v' : Byte) (s : State) (mem : Memory) (d1 d2 d3 d4 : Draw) (rest : List Input),
    m &&& m' = 0 → s.init = true → s.sensor = .sim mem → Memory.wf mem = true →
    s.inputs = answering [d1, d2, d3, d4] ++ rest →
    ∃ t u, exec (.wrf a m v) s = .next t ∧ exec (.wrf a m' v') t = .next u ∧ u.phase = .idle ∧
      Memory.read u.sensor.mem a &&& m = (v <<< (maskShift m).toNat) &&& m ∧
      Memory.read u.sensor.mem a &&& m' = (v' <<< (maskShift m').toNat) &&& m' ∧
      Memory.read u.sensor.mem a &&& ~~~(m ||| m') = Memory.read mem a &&& ~~~(m ||| m')

/-! ## Facade (spec/43_facade.md) -/

/-- R150: RDENERGY reads 0x04, 0x05 and 0x06 in that order and returns `lo | mi << 8 | (hi & 0xF) << 16`, never
above 1,048,575; at the first failing read it ends, with RESULT unchanged; it needs INIT = 1. -/
def Obligations.RdenergyMeaning : Prop :=
  encode .rdenergy = 0x80000000 ∧
  (∀ s : State, s.init = false →
    exec .rdenergy s = .next { s with trace := [], status := endStatus .notInit s.status, phase := .idle }) ∧
  ∀ (s : State) (d1 d2 d3 : Draw) (rest : List Input), s.init = true →
    (∀ x y z, s.inputs = answering [d1, d2, d3] ++ rest →
      s.sensor.readAnswer 0x04 d1 = some x → s.sensor.readAnswer 0x05 d2 = some y →
      s.sensor.readAnswer 0x06 d3 = some z →
      ∃ e : Word, e.toNat = x.toNat + y.toNat * 2 ^ 8 + (z.toNat % 16) * 2 ^ 16 ∧ e.toNat ≤ 1048575 ∧
        exec .rdenergy s =
          .next { s with
            result := e
            trace := [.rd 0x04 (some x), .rd 0x05 (some y), .rd 0x06 (some z)]
            status := endStatus .ok s.status
            phase := .idle
            inputs := rest }) ∧
    (s.inputs = .answer d1 :: rest → s.sensor.readAnswer 0x04 d1 = none →
      exec .rdenergy s =
        .next { s with
          trace := [.rd 0x04 none]
          status := endStatus .transportError s.status
          phase := .idle
          inputs := rest }) ∧
    (∀ x, s.inputs = answering [d1, d2] ++ rest →
      s.sensor.readAnswer 0x04 d1 = some x → s.sensor.readAnswer 0x05 d2 = none →
      exec .rdenergy s =
        .next { s with
          trace := [.rd 0x04 (some x), .rd 0x05 none]
          status := endStatus .transportError s.status
          phase := .idle
          inputs := rest }) ∧
    (∀ x y, s.inputs = answering [d1, d2, d3] ++ rest →
      s.sensor.readAnswer 0x04 d1 = some x → s.sensor.readAnswer 0x05 d2 = some y →
      s.sensor.readAnswer 0x06 d3 = none →
      exec .rdenergy s =
        .next { s with
          trace := [.rd 0x04 (some x), .rd 0x05 (some y), .rd 0x06 none]
          status := endStatus .transportError s.status
          phase := .idle
          inputs := rest })

/-- R151: RSTDEF writes the direct command 0x96 over whatever it read at 0x3C, then waits 2000 us; a transport
error ends it without the delay; no block register but STATUS is written; it needs INIT = 1. -/
def Obligations.RstdefMeaning : Prop :=
  encode .rstdef = 0x70000000 ∧
  (∀ s : State, s.init = false →
    exec .rstdef s = .next { s with trace := [], status := endStatus .notInit s.status, phase := .idle }) ∧
  ∀ (s : State) (d1 d2 d3 : Draw) (rest : List Input), s.init = true →
    (∀ x, s.inputs = answering [d1, d2, d3] ++ rest →
      s.sensor.readAnswer 0x3C d1 = some x → s.sensor.writeAnswer d2 = true →
      exec .rstdef s =
        .next { s with
          sensor := s.sensor.store 0x3C 0x96
          trace := [.rd 0x3C (some x), .wr 0x3C 0x96 true, .dly 2000]
          status := endStatus .ok s.status
          phase := .idle
          inputs := rest }) ∧
    (s.inputs = .answer d1 :: rest → s.sensor.readAnswer 0x3C d1 = none →
      exec .rstdef s =
        .next { s with
          trace := [.rd 0x3C none]
          status := endStatus .transportError s.status
          phase := .idle
          inputs := rest }) ∧
    (∀ x, s.inputs = answering [d1, d2] ++ rest →
      s.sensor.readAnswer 0x3C d1 = some x → s.sensor.writeAnswer d2 = false →
      exec .rstdef s =
        .next { s with
          trace := [.rd 0x3C (some x), .wr 0x3C 0x96 false]
          status := endStatus .transportError s.status
          phase := .idle
          inputs := rest })

/-! ## Calibration (spec/42_calibration.md) -/

/-- R177 with R120: a calibration of a powered-down sensor ends after the one read of 0x00 with POWERED_DOWN, and
writes only STATUS and CAL_SUCCESS. -/
def Obligations.PoweredDownCalibration : Prop :=
  ∀ (i : Instr) (s : State) (d : Draw) (rest : List Input) (b : Byte),
    isCalibration i = true → s.init = true → s.inputs = .answer d :: rest →
    s.sensor.readAnswer 0x00 d = some b → b &&& 0x01 = 1 →
    exec i s =
      .next { s with
        calSuccess := false
        trace := [.rd 0x00 (some b)]
        status := endStatus .poweredDown s.status
        phase := .idle
        inputs := rest }

/-- The full path of CALRCO (R121): the events in their order, with the bytes read (`b0`, `b1` at 0x08); OK and
CAL_SUCCESS = 1 exactly when both not-OK fields read 0, CAL_FAIL and CAL_SUCCESS = 0 otherwise. -/
def Obligations.CalrcoFullPath : Prop :=
  ∀ (s : State) (d0 d1 d2 d3 d4 d5 d6 d7 d8 d9 : Draw) (rest : List Input) (p x b0 b1 q r : Byte)
    (m1 m2 m3 : Sensor),
    s.init = true → s.inputs = answering [d0, d1, d2, d3, d4, d5, d6, d7, d8, d9] ++ rest →
    s.sensor.readAnswer 0x00 d0 = some p → p &&& 0x01 = 0 →
    s.sensor.readAnswer 0x3D d1 = some x → s.sensor.writeAnswer d2 = true → m1 = s.sensor.store 0x3D 0x96 →
    m1.readAnswer 0x08 d3 = some b0 → m1.writeAnswer d4 = true → m2 = m1.store 0x08 (b0 ||| 0x40) →
    m2.readAnswer 0x08 d6 = some b1 → m2.writeAnswer d7 = true → m3 = m2.store 0x08 (b1 &&& 0xBF) →
    m3.readAnswer 0x3A d8 = some q → m3.readAnswer 0x3B d9 = some r →
    exec .calrco s =
      .next { s with
        calSuccess := q &&& 0x40 == 0 && r &&& 0x40 == 0
        sensor := m3
        trace := [.rd 0x00 (some p), .rd 0x3D (some x), .wr 0x3D 0x96 true, .rd 0x08 (some b0),
          .wr 0x08 (b0 ||| 0x40) true, .dly 2000, .rd 0x08 (some b1), .wr 0x08 (b1 &&& 0xBF) true,
          .rd 0x3A (some q), .rd 0x3B (some r)]
        status := endStatus (if q &&& 0x40 == 0 && r &&& 0x40 == 0 then .ok else .calFail) s.status
        phase := .idle
        inputs := rest }

/-- The ratio, target and threshold of each DIV code, by the formulas and as the tables of R126 and R127 have them.
The 500 kHz and the 100 ms are constants of the model (assumption log 5, DEDUCED); that code c means the ratio
16 << c is R36's presumption about the sensor (log 21). -/
def Obligations.TargetAndThreshold : Prop :=
  (∀ d : BitVec 2,
    (targetOf d).toNat = 2 * 500000 * 100 / (1000 * (16 * 2 ^ d.toNat)) ∧
    (targetOf d).toNat = 100000 / (16 * 2 ^ d.toNat) ∧
    (thresholdOf (targetOf d)).toNat = (targetOf d).toNat * 35 / 1000) ∧
  (targetOf 0 = 6250 ∧ targetOf 1 = 3125 ∧ targetOf 2 = 1562 ∧ targetOf 3 = 781) ∧
  thresholdOf 6250 = 218 ∧ thresholdOf 3125 = 109 ∧ thresholdOf 1562 = 54 ∧ thresholdOf 781 = 27

/-- R123: a window that the clock closes, with a count below 2^31: the block performs exactly the window's events
and goes on to step f with the number of level changes as the count. -/
def Obligations.CountEdges : Prop :=
  ∀ (d : BitVec 2) (s : State) (w : Window) (rest : List Input),
    s.phase = .exec (.calres d .windowStart) → w.closes = true → w.count s.config < 2 ^ 31 →
    s.inputs = answering w.answers ++ rest →
    ∃ l : Bool,
      resume s =
        resume { s with
          phase := .exec (.calres d (.hideLco .read))
          work := { s.work with
            t0 := w.start.millis
            prev := l
            count := BitVec.ofNat 32 (w.count s.config) }
          trace := s.trace ++ w.events s.config
          inputs := rest }

/-- R124: as long as no clock read shows the window over and the count stays below 2^31, the command stays in its
window, however many answers come: the block has no timeout. The bound on the count is a premise: an edge past it
ends the command with COUNT_OVERFLOW (R128, Obligations.CountOverflow). -/
def Obligations.WindowHasNoTimeout : Prop :=
  ∀ (d : BitVec 2) (s : State) (loops : List (Draw × Draw)),
    s.phase = .exec (.calres d .windowClock) →
    (∀ l ∈ loops, windowOpen l.1.millis s.work.t0 = true) →
    s.work.count.toNat + edges s.work.prev (loops.map fun l => pinLevel s.config l.2) < 2 ^ 31 →
    s.inputs = answering (loopAnswers loops) →
    ∃ t, resume s = t ∧ t.phase = .exec (.calres d .windowClock) ∧ t.inputs = [] ∧
      t.trace = s.trace ++ loopEvents s.config loops ∧
      t.work.count.toNat =
        s.work.count.toNat + edges s.work.prev (loops.map fun l => pinLevel s.config l.2)

/-- R128 with R179: an edge seen at count 2^31 - 1 ends CALRES at once with COUNT_OVERFLOW: the trace ends with its
pin sample, CAL_SUCCESS is cleared, and CAL_SETTING, CAL_COUNT and CAL_DIFF are unchanged. -/
def Obligations.CountOverflow : Prop :=
  ∀ (d : BitVec 2) (s : State) (x : Draw) (rest : List Input),
    s.phase = .exec (.calres d .windowPin) → s.work.count.toInt = 2 ^ 31 - 1 →
    pinLevel s.config x ≠ s.work.prev → s.inputs = .answer x :: rest →
    resume s =
      { s with
        calSuccess := false
        trace := s.trace ++ [.pin (pinLevel s.config x)]
        status := endStatus .countOverflow s.status
        phase := .idle
        inputs := rest }

/-- R130 with R129 and R127: a CALRES that meets no error completes: it picks the first of the settings whose count
is nearest the target, and reports it, its count and its difference; OK and CAL_SUCCESS = 1 exactly when the
difference is below the threshold, CAL_FAIL and CAL_SUCCESS = 0 otherwise. Every other register is as before. -/
def Obligations.CalresSelectsFirstNearest : Prop :=
  ∀ (d : BitVec 2) (s : State) (a : ScanAnswers) (p : Byte) (rest : List Input),
    s.init = true → a.complete s.config s.sensor = true →
    s.sensor.readAnswer 0x00 a.power = some p → p &&& 0x01 = 0 →
    s.inputs = answering a.answers ++ rest →
    ∃ (k : Nat) (t : State), FirstNearest (100000 / (16 * 2 ^ d.toNat)) (a.counts s.config) k ∧
      exec (.calres d) s = .next t ∧
      t.phase = .idle ∧ t.inputs = rest ∧
      t.calSetting.toNat = k ∧
      (a.counts s.config)[k]? = some t.calCount.toNat ∧
      t.calDiff.toNat = distance (100000 / (16 * 2 ^ d.toNat)) t.calCount.toNat ∧
      (t.calSuccess = true ↔ t.calDiff.toNat < 100000 / (16 * 2 ^ d.toNat) * 35 / 1000) ∧
      t.status = endStatus (if t.calSuccess then .ok else .calFail) s.status ∧
      t.result = s.result ∧ t.init = s.init ∧ t.config = s.config ∧ t.hostPort = s.hostPort

/-- R130 with R123: under the free oracle, a CALRES that meets no error performs exactly the events of its
pseudocode, with these addresses and values, in this order: 101 transactions and 32 delays. -/
def Obligations.CalresEvents : Prop :=
  ∀ (d : BitVec 2) (s : State) (a : ScanAnswers) (rest : List Input),
    s.init = true → s.sensor = .oracle → a.complete s.config .oracle = true → a.power.byte &&& 0x01 = 0 →
    s.inputs = answering a.answers ++ rest →
    ∃ (k : Nat) (t : State), FirstNearest (100000 / (16 * 2 ^ d.toNat)) (a.counts s.config) k ∧
      exec (.calres d) s = .next t ∧
      t.trace = a.events s.config d k ∧
      (t.trace.filter Event.isTransaction).length = 101 ∧
      (t.trace.filter Event.isDelay).length = 32

/-- R131 with R125: under SIM, a CALRES that ran its whole scan has left the best setting in TUNE_CAP, DISP_LCO at 0
and its DIV code in DIV_RATIO, whether it ended with OK or CAL_FAIL; every other bit of SIM is as it was. -/
def Obligations.CalresLeavesBestWritten : Prop :=
  ∀ (d : BitVec 2) (s : State) (mem : Memory) (a : ScanAnswers) (rest : List Input),
    s.init = true → s.sensor = .sim mem → Memory.wf mem = true → a.complete s.config (.sim mem) = true →
    Memory.read mem 0x00 &&& 0x01 = 0 → s.inputs = answering a.answers ++ rest →
    ∃ t : State, exec (.calres d) s = .next t ∧
      (statusCode t.status = Code.bits .ok ∨ statusCode t.status = Code.bits .calFail) ∧
      Memory.read t.sensor.mem 0x08 = (Memory.read mem 0x08 &&& 0x70) ||| t.calSetting.setWidth 8 ∧
      Memory.read t.sensor.mem 0x03 = (Memory.read mem 0x03 &&& 0x3F) ||| (d.setWidth 8 <<< 6) ∧
      ∀ x : Addr, x ≠ 0x03 → x ≠ 0x08 → Memory.read t.sensor.mem x = Memory.read mem x

/-- R33: CALRES reads no part of the working state before it has written it: what it does, event for event and
register for register, does not depend on the working state it starts with. -/
def Obligations.CalresIgnoresOldWorkingState : Prop :=
  ∀ (d : BitVec 2) (s : State) (w : CalWork),
    ∃ (t : State) (w' : CalWork), exec (.calres d) s = .next t ∧
      exec (.calres d) { s with work := w } = .next { t with work := w' }

/-! ## The invariant -/

/-- Every step keeps the invariant of the machine (Inv in Safety.lean): BUSY = 1 exactly while a command is in
execution (R32); the reserved bits of STATUS 0, CODE assigned, STICKY set after a failure (R24, R171, R172);
INIT = 1 while a command is in execution (R173); CAL_COUNT and CAL_DIFF below 2^31, and the scan's working state as
R33, R126 to R129 and R31 have it; SIM in canonical form. -/
def Obligations.StepKeepsMachineLegal : Prop :=
  ∀ s t : State, Inv s → step s = .next t → Inv t

/-- The invariant holds right after reset. -/
def Obligations.ResetIsLegal : Prop := Inv State.reset
end

