-- ==== Sys2Proof/Laws/Assembler.lean ====
section
/-! SUPPORT. Lemmas about the assembler (spec/30_encoding.md R78 to R80): what each shared operation accepts, how a
line comes to its command, and `assemblesBy` from the function that reads the operands. -/

namespace Sys2Proof.Machine

/-! ## The encoded word as a number -/

theorem toNat_append_mul {m n : Nat} (x : BitVec m) (y : BitVec n) :
    (x ++ y).toNat = x.toNat * 2 ^ n + y.toNat := by
  rw [BitVec.toNat_append, ← Nat.shiftLeft_add_eq_or_of_lt y.isLt, Nat.shiftLeft_eq]

/-- A format-C word is the sum of its fields at their places (R71). -/
theorem packC_toNat (op : BitVec 4) (a : Addr) (m v : Byte) :
    (packC op a m v).toNat = op.toNat * 2 ^ 28 + a.toNat * 2 ^ 16 + m.toNat * 2 ^ 8 + v.toNat := by
  simp only [packC, toNat_append_mul, BitVec.toNat_ofNat]
  omega

/-! ## Operands -/

/-- An operand is put into n bits only as itself (R78). -/
theorem fits_eq_some {n v : Nat} {b : BitVec n} : fits n v = some b ↔ v < 2 ^ n ∧ v = b.toNat := by
  unfold fits
  split
  · rename_i h
    rw [Option.some.injEq, ← BitVec.toNat_inj, BitVec.toNat_ofNat, Nat.mod_eq_of_lt h]
    tauto
  · simp [*]

/-- Without symbols, an operand of n bits is the number its numeral writes. -/
theorem operandIn_eq_some {n : Nat} {t : Text} {b : BitVec n} :
    operandIn n [] t = some b ↔ numeral t = some b.toNat := by
  unfold operandIn operandValue
  simp only [List.find?_nil, Option.bind_eq_some_iff, fits_eq_some]
  constructor
  · rintro ⟨v, h, -, rfl⟩; exact h
  · intro h; exact ⟨_, h, b.isLt, rfl⟩

/-! ## Lines -/

theorem code_ne_nil {line k : Text} (h : mnemonicOf (code line) = k) (hk : k ≠ []) : code line ≠ [] := by
  rintro h'
  rw [h'] at h
  exact hk (h ▸ rfl)

/-- With a mnemonic the line is the word of its command. -/
theorem assembleLine_some {line k : Text} (h : mnemonicOf (code line) = k) (hk : k ≠ []) {i : Instr}
    (hi : assembleCode (code line) = some i) : assembleLine line = .word (encode i) := by
  cases hc : code line with
  | nil => exact absurd hc (code_ne_nil h hk)
  | cons c cs => simp only [assembleLine, hc, hc ▸ hi]

/-- With a mnemonic and no command the line is refused. -/
theorem assembleLine_none {line k : Text} (h : mnemonicOf (code line) = k) (hk : k ≠ [])
    (hi : assembleCode (code line) = none) : assembleLine line = .refused := by
  cases hc : code line with
  | nil => exact absurd hc (code_ne_nil h hk)
  | cons c cs => simp only [assembleLine, hc, hc ▸ hi]

/-- A command's mnemonic leads to that command's syntax. -/
theorem assembleCode_core {r : OpRow} (hr : r ∈ opRows) (t : Text) (h : mnemonicOf t = spelling r.mnemonic) :
    assembleCode t = assembleCore r.mnemonic (operandsOf t) := by
  unfold assembleCode
  rw [h]
  have : ∀ r ∈ opRows, opRows.find? (fun r' => spelling r'.mnemonic == spelling r.mnemonic) = some r := by decide
  rw [this r hr]

/-- A pseudo-instruction's name leads to its row. -/
theorem assembleCode_pseudo {p : PseudoRow} (hp : p ∈ pseudoRows) (t : Text) (h : mnemonicOf t = p.name) :
    assembleCode t = p.expand (operandsOf t) := by
  unfold assembleCode
  rw [h]
  have h1 : ∀ p ∈ pseudoRows, opRows.find? (fun r' => spelling r'.mnemonic == p.name) = none := by decide
  have h2 : ∀ p ∈ pseudoRows, pseudoRows.find? (fun r => r.name == p.name) = some p := by decide
  rw [h1 p hp, h2 p hp]

/-- `assemblesBy` from the function f that reads the operands of the mnemonic k. -/
theorem assemblesBy_of {k : Text} {accepts : List Text → Nat → Prop} (hk : k ≠ [])
    (f : List Text → Option Instr)
    (hf : ∀ t, mnemonicOf t = k → assembleCode t = f (operandsOf t))
    (ha : ∀ ops n, accepts ops n ↔ ∃ i, f ops = some i ∧ (encode i).toNat = n) :
    assemblesBy k accepts := by
  intro line h
  cases hi : f (operandsOf (code line)) with
  | none => simp [assembleLine_none h hk ((hf _ h).trans hi), ha, hi]
  | some i =>
    rw [assembleLine_some h hk ((hf _ h).trans hi)]
    simp only [ha, hi, Assembled.word.injEq, Option.some.injEq, exists_eq_left', BitVec.toNat_inj]
    exact ⟨fun _ => trivial, fun h => absurd rfl (h _)⟩

end Sys2Proof.Machine
end

