-- ==== Sys2Proof/Laws/State.lean ====
section
/-! SUPPORT. What each shared update of State leaves in each field: one lemma per field per update, so that no
proof unfolds a record update. -/

namespace Sys2Proof.Machine

@[simp] theorem finish_eq (op : Instr) (s : State) : finish op s = endCommand (some op) .ok s := rfl

/-! ## accept -/

@[simp] theorem accept_config (s : State) : (accept s).config = s.config := rfl
@[simp] theorem accept_status (s : State) : (accept s).status = s.status := rfl
@[simp] theorem accept_result (s : State) : (accept s).result = s.result := rfl
@[simp] theorem accept_calSetting (s : State) : (accept s).calSetting = s.calSetting := rfl
@[simp] theorem accept_calCount (s : State) : (accept s).calCount = s.calCount := rfl
@[simp] theorem accept_calDiff (s : State) : (accept s).calDiff = s.calDiff := rfl
@[simp] theorem accept_calSuccess (s : State) : (accept s).calSuccess = s.calSuccess := rfl
@[simp] theorem accept_init (s : State) : (accept s).init = s.init := rfl
@[simp] theorem accept_phase (s : State) : (accept s).phase = s.phase := rfl
@[simp] theorem accept_work (s : State) : (accept s).work = s.work := rfl
@[simp] theorem accept_hostPort (s : State) : (accept s).hostPort = s.hostPort := rfl
@[simp] theorem accept_inputs (s : State) : (accept s).inputs = s.inputs := rfl
@[simp] theorem accept_sensor (s : State) : (accept s).sensor = s.sensor := rfl
@[simp] theorem accept_trace (s : State) : (accept s).trace = [] := rfl

/-! ## enter -/

@[simp] theorem enter_config (r : Running) (s : State) : (enter r s).config = s.config := rfl
@[simp] theorem enter_status (r : Running) (s : State) : (enter r s).status = startStatus s.status := rfl
@[simp] theorem enter_result (r : Running) (s : State) : (enter r s).result = s.result := rfl
@[simp] theorem enter_calSetting (r : Running) (s : State) : (enter r s).calSetting = s.calSetting := rfl
@[simp] theorem enter_calCount (r : Running) (s : State) : (enter r s).calCount = s.calCount := rfl
@[simp] theorem enter_calDiff (r : Running) (s : State) : (enter r s).calDiff = s.calDiff := rfl
@[simp] theorem enter_calSuccess (r : Running) (s : State) : (enter r s).calSuccess = s.calSuccess := rfl
@[simp] theorem enter_init (r : Running) (s : State) : (enter r s).init = s.init := rfl
@[simp] theorem enter_phase (r : Running) (s : State) : (enter r s).phase = .exec r := rfl
@[simp] theorem enter_work (r : Running) (s : State) : (enter r s).work = s.work := rfl
@[simp] theorem enter_hostPort (r : Running) (s : State) : (enter r s).hostPort = s.hostPort := rfl
@[simp] theorem enter_inputs (r : Running) (s : State) : (enter r s).inputs = s.inputs := rfl
@[simp] theorem enter_sensor (r : Running) (s : State) : (enter r s).sensor = s.sensor := rfl
@[simp] theorem enter_trace (r : Running) (s : State) : (enter r s).trace = s.trace := rfl

/-! ## goOn -/

@[simp] theorem goOn_config (r : Running) (s : State) : (goOn r s).config = s.config := rfl
@[simp] theorem goOn_status (r : Running) (s : State) : (goOn r s).status = s.status := rfl
@[simp] theorem goOn_result (r : Running) (s : State) : (goOn r s).result = s.result := rfl
@[simp] theorem goOn_calSetting (r : Running) (s : State) : (goOn r s).calSetting = s.calSetting := rfl
@[simp] theorem goOn_calCount (r : Running) (s : State) : (goOn r s).calCount = s.calCount := rfl
@[simp] theorem goOn_calDiff (r : Running) (s : State) : (goOn r s).calDiff = s.calDiff := rfl
@[simp] theorem goOn_calSuccess (r : Running) (s : State) : (goOn r s).calSuccess = s.calSuccess := rfl
@[simp] theorem goOn_init (r : Running) (s : State) : (goOn r s).init = s.init := rfl
@[simp] theorem goOn_phase (r : Running) (s : State) : (goOn r s).phase = .exec r := rfl
@[simp] theorem goOn_work (r : Running) (s : State) : (goOn r s).work = s.work := rfl
@[simp] theorem goOn_hostPort (r : Running) (s : State) : (goOn r s).hostPort = s.hostPort := rfl
@[simp] theorem goOn_inputs (r : Running) (s : State) : (goOn r s).inputs = s.inputs := rfl
@[simp] theorem goOn_sensor (r : Running) (s : State) : (goOn r s).sensor = s.sensor := rfl
@[simp] theorem goOn_trace (r : Running) (s : State) : (goOn r s).trace = s.trace := rfl

/-! ## record -/

@[simp] theorem record_config (e : Event) (s : State) : (record e s).config = s.config := rfl
@[simp] theorem record_status (e : Event) (s : State) : (record e s).status = s.status := rfl
@[simp] theorem record_result (e : Event) (s : State) : (record e s).result = s.result := rfl
@[simp] theorem record_calSetting (e : Event) (s : State) : (record e s).calSetting = s.calSetting := rfl
@[simp] theorem record_calCount (e : Event) (s : State) : (record e s).calCount = s.calCount := rfl
@[simp] theorem record_calDiff (e : Event) (s : State) : (record e s).calDiff = s.calDiff := rfl
@[simp] theorem record_calSuccess (e : Event) (s : State) : (record e s).calSuccess = s.calSuccess := rfl
@[simp] theorem record_init (e : Event) (s : State) : (record e s).init = s.init := rfl
@[simp] theorem record_phase (e : Event) (s : State) : (record e s).phase = s.phase := rfl
@[simp] theorem record_work (e : Event) (s : State) : (record e s).work = s.work := rfl
@[simp] theorem record_hostPort (e : Event) (s : State) : (record e s).hostPort = s.hostPort := rfl
@[simp] theorem record_inputs (e : Event) (s : State) : (record e s).inputs = s.inputs := rfl
@[simp] theorem record_sensor (e : Event) (s : State) : (record e s).sensor = s.sensor := rfl
@[simp] theorem record_trace (e : Event) (s : State) : (record e s).trace = s.trace ++ [e] := rfl

/-! ## deliver -/

@[simp] theorem deliver_config (a : Addr) (b : Byte) (ok : Bool) (s : State) :
    (deliver a b ok s).config = s.config := rfl
@[simp] theorem deliver_status (a : Addr) (b : Byte) (ok : Bool) (s : State) :
    (deliver a b ok s).status = s.status := rfl
@[simp] theorem deliver_result (a : Addr) (b : Byte) (ok : Bool) (s : State) :
    (deliver a b ok s).result = s.result := rfl
@[simp] theorem deliver_calSetting (a : Addr) (b : Byte) (ok : Bool) (s : State) :
    (deliver a b ok s).calSetting = s.calSetting := rfl
@[simp] theorem deliver_calCount (a : Addr) (b : Byte) (ok : Bool) (s : State) :
    (deliver a b ok s).calCount = s.calCount := rfl
@[simp] theorem deliver_calDiff (a : Addr) (b : Byte) (ok : Bool) (s : State) :
    (deliver a b ok s).calDiff = s.calDiff := rfl
@[simp] theorem deliver_calSuccess (a : Addr) (b : Byte) (ok : Bool) (s : State) :
    (deliver a b ok s).calSuccess = s.calSuccess := rfl
@[simp] theorem deliver_init (a : Addr) (b : Byte) (ok : Bool) (s : State) :
    (deliver a b ok s).init = s.init := rfl
@[simp] theorem deliver_phase (a : Addr) (b : Byte) (ok : Bool) (s : State) :
    (deliver a b ok s).phase = s.phase := rfl
@[simp] theorem deliver_work (a : Addr) (b : Byte) (ok : Bool) (s : State) :
    (deliver a b ok s).work = s.work := rfl
@[simp] theorem deliver_hostPort (a : Addr) (b : Byte) (ok : Bool) (s : State) :
    (deliver a b ok s).hostPort = s.hostPort := rfl
@[simp] theorem deliver_inputs (a : Addr) (b : Byte) (ok : Bool) (s : State) :
    (deliver a b ok s).inputs = s.inputs := rfl
@[simp] theorem deliver_sensor (a : Addr) (b : Byte) (ok : Bool) (s : State) :
    (deliver a b ok s).sensor = s.sensor.afterWrite a b ok := rfl
@[simp] theorem deliver_trace (a : Addr) (b : Byte) (ok : Bool) (s : State) :
    (deliver a b ok s).trace = s.trace := rfl

/-! ## endCommand -/

@[simp] theorem endCommand_config (op : Option Instr) (c : Code) (s : State) :
    (endCommand op c s).config = s.config := rfl
@[simp] theorem endCommand_status (op : Option Instr) (c : Code) (s : State) :
    (endCommand op c s).status = endStatus c s.status := rfl
@[simp] theorem endCommand_result (op : Option Instr) (c : Code) (s : State) :
    (endCommand op c s).result = s.result := rfl
@[simp] theorem endCommand_calSetting (op : Option Instr) (c : Code) (s : State) :
    (endCommand op c s).calSetting = s.calSetting := rfl
@[simp] theorem endCommand_calCount (op : Option Instr) (c : Code) (s : State) :
    (endCommand op c s).calCount = s.calCount := rfl
@[simp] theorem endCommand_calDiff (op : Option Instr) (c : Code) (s : State) :
    (endCommand op c s).calDiff = s.calDiff := rfl
@[simp] theorem endCommand_calSuccess (op : Option Instr) (c : Code) (s : State) :
    (endCommand op c s).calSuccess = if op.any isCalibration && c.failsCalibration then false else s.calSuccess := rfl
@[simp] theorem endCommand_init (op : Option Instr) (c : Code) (s : State) :
    (endCommand op c s).init = s.init := rfl
@[simp] theorem endCommand_phase (op : Option Instr) (c : Code) (s : State) :
    (endCommand op c s).phase = .idle := rfl
@[simp] theorem endCommand_work (op : Option Instr) (c : Code) (s : State) :
    (endCommand op c s).work = s.work := rfl
@[simp] theorem endCommand_hostPort (op : Option Instr) (c : Code) (s : State) :
    (endCommand op c s).hostPort = s.hostPort := rfl
@[simp] theorem endCommand_inputs (op : Option Instr) (c : Code) (s : State) :
    (endCommand op c s).inputs = s.inputs := rfl
@[simp] theorem endCommand_sensor (op : Option Instr) (c : Code) (s : State) :
    (endCommand op c s).sensor = s.sensor := rfl
@[simp] theorem endCommand_trace (op : Option Instr) (c : Code) (s : State) :
    (endCommand op c s).trace = s.trace := rfl

/-! ## blockReset -/

@[simp] theorem blockReset_config (s : State) : (blockReset s).config = s.config := rfl
@[simp] theorem blockReset_status (s : State) : (blockReset s).status = 0x00 := rfl
@[simp] theorem blockReset_result (s : State) : (blockReset s).result = 0 := rfl
@[simp] theorem blockReset_calSetting (s : State) : (blockReset s).calSetting = 0 := rfl
@[simp] theorem blockReset_calCount (s : State) : (blockReset s).calCount = 0 := rfl
@[simp] theorem blockReset_calDiff (s : State) : (blockReset s).calDiff = 0 := rfl
@[simp] theorem blockReset_calSuccess (s : State) : (blockReset s).calSuccess = false := rfl
@[simp] theorem blockReset_init (s : State) : (blockReset s).init = false := rfl
@[simp] theorem blockReset_phase (s : State) : (blockReset s).phase = .idle := rfl
@[simp] theorem blockReset_work (s : State) : (blockReset s).work = s.work := rfl
@[simp] theorem blockReset_hostPort (s : State) : (blockReset s).hostPort = s.hostPort := rfl
@[simp] theorem blockReset_inputs (s : State) : (blockReset s).inputs = s.inputs := rfl
@[simp] theorem blockReset_sensor (s : State) : (blockReset s).sensor = s.sensor := rfl
@[simp] theorem blockReset_trace (s : State) : (blockReset s).trace = s.trace := rfl

end Sys2Proof.Machine
end

