-- ==== Sys2Proof/Laws/Flags.lean ====
section
/-! SUPPORT. What starting and ending a command leave in each field of STATUS (R24, R172). -/

namespace Sys2Proof.Machine

theorem startStatus_fields (st : Byte) :
    statusCode (startStatus st) = statusCode st ∧ statusBusy (startStatus st) = true ∧
      statusReserved (startStatus st) = statusReserved st ∧ statusSticky (startStatus st) = statusSticky st := by
  revert st; decide

/-- Starting a command changes nothing that ending it keeps. -/
@[simp] theorem endStatus_startStatus (c : Code) (st : Byte) : endStatus c (startStatus st) = endStatus c st := by
  revert st; cases c <;> decide

theorem endStatus_code (c : Code) (st : Byte) : statusCode (endStatus c st) = c.bits := by
  revert st; cases c <;> decide

theorem endStatus_busy (c : Code) (st : Byte) : statusBusy (endStatus c st) = false := by
  revert st; cases c <;> decide

theorem endStatus_reserved (c : Code) (st : Byte) : statusReserved (endStatus c st) = statusReserved st := by
  revert st; cases c <;> decide

theorem endStatus_sticky (c : Code) (st : Byte) :
    statusSticky (endStatus c st) = (statusSticky st || decide (c ≠ .ok)) := by
  revert st; cases c <;> decide

theorem code_bits_injective : ∀ c c' : Code, c.bits = c'.bits → c = c' := by
  intro c c'; cases c <;> cases c' <;> decide

theorem code_bits_lt (c : Code) : c.bits.toNat < 8 := by cases c <;> decide

theorem code_bits_zero (c : Code) : c.bits = 0 ↔ c = .ok := by cases c <;> decide

end Sys2Proof.Machine
end

