-- ==== Sys2Proof/Laws/Memory.lean ====
section
/-! SUPPORT. The laws of SIM's memory: a read after a write, and the canonical form kept by every operation. -/

namespace Sys2Proof.Machine

@[simp] theorem Sensor.mem_oracle : Sensor.oracle.mem = [] := rfl
@[simp] theorem Sensor.mem_sim (m : Memory) : (Sensor.sim m).mem = m := rfl

theorem Memory.wfFrom_mono {lo lo' : Nat} (h : lo ≤ lo') : ∀ {m : Memory},
    Memory.wfFrom lo' m = true → Memory.wfFrom lo m = true
  | [], _ => rfl
  | (k, b) :: rest, hm => by
    simp only [Memory.wfFrom, Bool.and_eq_true, decide_eq_true_eq] at hm ⊢
    exact ⟨⟨⟨by omega, hm.1.1.2⟩, hm.1.2⟩, hm.2⟩

/-- Below the first cell nothing is listed. -/
theorem Memory.read_below {a : Addr} : ∀ {m : Memory} {lo : Nat}, Memory.wfFrom lo m = true → a.toNat < lo →
    Memory.read m a = Memory.unlisted
  | [], _, _, _ => rfl
  | (k, b) :: rest, lo, hm, ha => by
    simp only [Memory.wfFrom, Bool.and_eq_true, decide_eq_true_eq] at hm
    have hk : k ≠ a.toNat := by omega
    simp only [Memory.read, if_neg hk]
    exact Memory.read_below hm.2 (by omega)

theorem Memory.write_wfFrom (a : Addr) (b : Byte) : ∀ {m : Memory} {lo : Nat}, Memory.wfFrom lo m = true →
    lo ≤ a.toNat → Memory.wfFrom lo (Memory.write m a b) = true
  | [], lo, _, hlo => by
    have := a.isLt
    by_cases hb : b = Memory.unlisted <;> simp [Memory.write, Memory.wfFrom, hb, hlo]
    omega
  | (k, c) :: rest, lo, hm, hlo => by
    have ha := a.isLt
    have hm' := hm
    simp only [Memory.wfFrom, Bool.and_eq_true, decide_eq_true_eq] at hm
    unfold Memory.write
    split
    · split
      · exact hm'
      · rename_i hlt hb
        simp only [Memory.wfFrom, Bool.and_eq_true, decide_eq_true_eq]
        exact ⟨⟨⟨hlo, by omega⟩, hb⟩, ⟨⟨by omega, hm.1.1.2⟩, hm.1.2⟩, hm.2⟩
    · split
      · split
        · exact Memory.wfFrom_mono (by omega) hm.2
        · rename_i hb
          simp only [Memory.wfFrom, Bool.and_eq_true, decide_eq_true_eq]
          exact ⟨⟨hm.1.1, hb⟩, hm.2⟩
      · simp only [Memory.wfFrom, Bool.and_eq_true, decide_eq_true_eq]
        exact ⟨hm.1, Memory.write_wfFrom a b hm.2 (by omega)⟩

/-- A write keeps the canonical form. -/
theorem Memory.write_wf {m : Memory} (a : Addr) (b : Byte) (h : m.wf = true) : (m.write a b).wf = true :=
  Memory.write_wfFrom a b h (Nat.zero_le _)

theorem Memory.read_write_from (a : Addr) (b : Byte) (a' : Addr) : ∀ {m : Memory} {lo : Nat},
    Memory.wfFrom lo m = true → Memory.read (Memory.write m a b) a' = if a' = a then b else Memory.read m a'
  | [], _, _ => by
    by_cases hb : b = Memory.unlisted <;> by_cases h : a' = a
    · simp [Memory.write, Memory.read, hb, h]
    · simp [Memory.write, Memory.read, hb, h]
    · simp [Memory.write, Memory.read, hb, h]
    · have hn : a.toNat ≠ a'.toNat := fun he => h (BitVec.eq_of_toNat_eq he.symm)
      simp [Memory.write, Memory.read, hb, h, hn]
  | (k, c) :: rest, lo, hm => by
    simp only [Memory.wfFrom, Bool.and_eq_true, decide_eq_true_eq] at hm
    have hn : a'.toNat = a.toNat ↔ a' = a := ⟨fun he => BitVec.eq_of_toNat_eq he, fun he => by rw [he]⟩
    unfold Memory.write
    split
    · rename_i hlt
      split
      · rename_i hb
        split
        · rename_i he
          subst he
          have hk : k ≠ a'.toNat := by omega
          simp only [Memory.read, if_neg hk]
          rw [Memory.read_below hm.2 (by omega), hb]
        · rfl
      · by_cases h : a' = a
        · simp [Memory.read, h]
        · have : a.toNat ≠ a'.toNat := fun he => h (hn.1 he.symm)
          simp only [Memory.read, if_neg this, if_neg h]
    · split
      · rename_i hk
        split
        · rename_i hb
          by_cases h : a' = a
          · subst h
            rw [if_pos rfl, Memory.read_below hm.2 (by omega), hb]
          · have : k ≠ a'.toNat := fun he => h (hn.1 (by omega))
            simp only [Memory.read, if_neg this, if_neg h]
        · by_cases h : a' = a
          · subst h; simp [Memory.read, hk]
          · have : k ≠ a'.toNat := fun he => h (hn.1 (by omega))
            simp only [Memory.read, if_neg this, if_neg h]
      · rename_i hk
        simp only [Memory.read]
        rw [Memory.read_write_from a b a' hm.2]
        by_cases h : a' = a
        · subst h; simp [show k ≠ a'.toNat from fun he => hk he.symm]
        · simp [h]

/-- A write that is answered keeps the canonical form. -/
theorem Sensor.afterWrite_wf {m : Sensor} (a : Addr) (b : Byte) (ok : Bool) (h : m.mem.wf = true) :
    (m.afterWrite a b ok).mem.wf = true := by
  cases ok
  · exact h
  · cases m with
    | oracle => exact h
    | sim mem => exact Memory.write_wf a b h

theorem Sensor.store_wf {m : Sensor} (a : Addr) (b : Byte) (h : m.mem.wf = true) :
    (m.store a b).mem.wf = true := Sensor.afterWrite_wf a b true h

/-- The transport grants the same answers whatever was stored. -/
@[simp] theorem Sensor.store_writeAnswer (m : Sensor) (a : Addr) (b : Byte) (d : Draw) :
    (m.store a b).writeAnswer d = m.writeAnswer d := by cases m <;> rfl

@[simp] theorem Sensor.afterWrite_true (m : Sensor) (a : Addr) (b : Byte) : m.afterWrite a b true = m.store a b := rfl
@[simp] theorem Sensor.afterWrite_false (m : Sensor) (a : Addr) (b : Byte) : m.afterWrite a b false = m := rfl

/-- A read is answered Ok exactly when the transport grants. -/
theorem Sensor.readAnswer_isSome (m : Sensor) (a : Addr) (d : Draw) :
    (m.readAnswer a d).isSome = m.writeAnswer d := by
  cases m with
  | oracle => cases h : d.ack <;> simp [Sensor.readAnswer, Sensor.writeAnswer, h]
  | sim mem => rfl

end Sys2Proof.Machine
end

