-- ==== Sys2Proof/Laws/Run.lean ====
section
/-! SUPPORT. What running a command does: its equations, one lemma per kind of event, and the packaged induction
by which a property that every event keeps is kept by a whole run. -/

namespace Sys2Proof.Machine

/-! ## The equations of `run` -/

@[simp] theorem run_nil (s : State) : run [] s = { s with inputs := [] } := rfl

theorem run_idle {s : State} (h : s.phase = .idle) (xs : List Input) : run xs s = { s with inputs := xs } := by
  cases xs <;> simp [run, h]

theorem run_answer {s : State} {r : Running} (h : s.phase = .exec r) (d : Draw) (xs : List Input) :
    run (.answer d :: xs) s = run xs (perform r d s) := by simp [run, h]

theorem run_wait {s : State} {r : Running} (h : s.phase = .exec r) (xs : List Input) :
    run (.wait :: xs) s = { s with inputs := xs } := by simp [run, h]

theorem run_reset {s : State} {r : Running} (h : s.phase = .exec r) (reached : Bool) (xs : List Input) :
    run (.reset reached :: xs) s = { s with inputs := .reset reached :: xs } := by simp [run, h]

/-! ## The events -/

theorem perform_rd_ok (op : Instr) (d : Draw) (s : State) {a : Addr} {k : Byte → State → State} {b : Byte}
    (h : s.sensor.readAnswer a d = some b) :
    (Action.rd a k).perform op d s = k b (record (.rd a (some b)) s) := by
  simp [Action.perform, memRead, h]

theorem perform_rd_err (op : Instr) (d : Draw) (s : State) {a : Addr} {k : Byte → State → State}
    (h : s.sensor.readAnswer a d = none) :
    (Action.rd a k).perform op d s = endCommand (some op) .transportError (record (.rd a none) s) := by
  simp [Action.perform, memRead, h]

theorem perform_wr_ok (op : Instr) (d : Draw) (s : State) {a : Addr} {b : Byte} {k : State → State}
    (h : s.sensor.writeAnswer d = true) :
    (Action.wr a b k).perform op d s =
      k (record (.wr a b true) (deliver a b true s)) := by
  simp [Action.perform, memWrite, h]

theorem perform_wr_err (op : Instr) (d : Draw) (s : State) {a : Addr} {b : Byte} {k : State → State}
    (h : s.sensor.writeAnswer d = false) :
    (Action.wr a b k).perform op d s = endCommand (some op) .transportError (record (.wr a b false) s) := by
  simp [Action.perform, memWrite, h, deliver]

@[simp] theorem perform_clk (op : Instr) (d : Draw) (s : State) (k : Word → State → State) :
    (Action.clk k).perform op d s = k d.millis (record (.clk d.millis) s) := rfl

@[simp] theorem perform_pin (op : Instr) (d : Draw) (s : State) (k : Bool → State → State) :
    (Action.pin k).perform op d s = k (pinLevel s.config d) (record (.pin (pinLevel s.config d)) s) := rfl

@[simp] theorem perform_dly (op : Instr) (d : Draw) (s : State) (us : Nat) (k : State → State) :
    (Action.dly us k).perform op d s = k (record (.dly us) s) := rfl

/-! ## One event of a run -/

section events
variable {s : State} {r : Running} {a : Addr} {b : Byte} {d : Draw}

/-- A read answered Ok: the command goes on with the byte (R53). -/
theorem run_rd {k : Byte → State → State} (h : s.phase = .exec r) (ha : action r s = .rd a k)
    (hr : s.sensor.readAnswer a d = some b) (xs : List Input) :
    run (.answer d :: xs) s = run xs (k b (record (.rd a (some b)) s)) := by
  rw [run_answer h, perform, ha, perform_rd_ok _ _ _ hr]

/-- A read answered Err ends the command (R176). -/
theorem run_rd_err {k : Byte → State → State} (h : s.phase = .exec r) (ha : action r s = .rd a k)
    (hr : s.sensor.readAnswer a d = none) (xs : List Input) :
    run (.answer d :: xs) s =
      { endCommand (some r.op) .transportError (record (.rd a none) s) with inputs := xs } := by
  rw [run_answer h, perform, ha, perform_rd_err _ _ _ hr, run_idle rfl]

/-- A write answered Ok: the sensor has the byte and the command goes on (R53, R54). -/
theorem run_wr {k : State → State} (h : s.phase = .exec r) (ha : action r s = .wr a b k)
    (hw : s.sensor.writeAnswer d = true) (xs : List Input) :
    run (.answer d :: xs) s = run xs (k (record (.wr a b true) (deliver a b true s))) := by
  rw [run_answer h, perform, ha, perform_wr_ok _ _ _ hw]

/-- A write answered Err ends the command (R176). -/
theorem run_wr_err {k : State → State} (h : s.phase = .exec r) (ha : action r s = .wr a b k)
    (hw : s.sensor.writeAnswer d = false) (xs : List Input) :
    run (.answer d :: xs) s =
      { endCommand (some r.op) .transportError (record (.wr a b false) s) with inputs := xs } := by
  rw [run_answer h, perform, ha, perform_wr_err _ _ _ hw, run_idle rfl]

theorem run_clk {k : Word → State → State} (h : s.phase = .exec r) (ha : action r s = .clk k)
    (xs : List Input) :
    run (.answer d :: xs) s = run xs (k d.millis (record (.clk d.millis) s)) := by
  rw [run_answer h, perform, ha, perform_clk]

theorem run_pin {k : Bool → State → State} (h : s.phase = .exec r) (ha : action r s = .pin k)
    (xs : List Input) :
    run (.answer d :: xs) s = run xs (k (pinLevel s.config d) (record (.pin (pinLevel s.config d)) s)) := by
  rw [run_answer h, perform, ha, perform_pin]

theorem run_dly {us : Nat} {k : State → State} (h : s.phase = .exec r) (ha : action r s = .dly us k)
    (xs : List Input) :
    run (.answer d :: xs) s = run xs (k (record (.dly us) s)) := by
  rw [run_answer h, perform, ha, perform_dly]

end events

/-! ## Properties a run keeps -/

/-- A property that does not depend on the inputs and that every event keeps is kept by a run. -/
theorem run_keeps {P : State → Prop} (inputs : ∀ s xs, P s → P { s with inputs := xs })
    (event : ∀ r d s, s.phase = .exec r → P s → P (perform r d s)) :
    ∀ xs s, P s → P (run xs s)
  | [], s, h => inputs s [] h
  | x :: xs, s, h => by
    cases hp : s.phase with
    | idle => rw [run_idle hp]; exact inputs s _ h
    | exec r =>
      cases x with
      | answer d => rw [run_answer hp]; exact run_keeps inputs event xs _ (event r d s hp h)
      | wait => rw [run_wait hp]; exact inputs s _ h
      | reset reached => rw [run_reset hp]; exact inputs s _ h

/-- A change of state that leaves PHASE alone and that every event commutes with commutes with a run. -/
theorem run_commutes {f : State → State} (phase : ∀ s, (f s).phase = s.phase)
    (inputs : ∀ s xs, { f s with inputs := xs } = f { s with inputs := xs })
    (event : ∀ r d s, s.phase = .exec r → perform r d (f s) = f (perform r d s)) :
    ∀ xs s, run xs (f s) = f (run xs s)
  | [], s => inputs s []
  | x :: xs, s => by
    cases hp : s.phase with
    | idle => rw [run_idle hp, run_idle ((phase s).trans hp)]; exact inputs s _
    | exec r =>
      have hf := (phase s).trans hp
      cases x with
      | answer d => rw [run_answer hp, run_answer hf, event r d s hp]; exact run_commutes phase inputs event xs _
      | wait => rw [run_wait hp, run_wait hf]; exact inputs s _
      | reset reached => rw [run_reset hp, run_reset hf]; exact inputs s _

/-! ## A reset that cuts a command (R197) -/

/-- The next event does not depend on the answers to come. -/
@[simp] theorem action_inputs (r : Running) (s : State) (xs : List Input) :
    action r { s with inputs := xs } = action r s := by cases r <;> rfl

@[simp] theorem cutWrite_idle {s : State} (h : s.phase = .idle) : cutWrite s = s := by simp [cutWrite, h]

/-- A write that the reset cuts may have reached the sensor. -/
theorem cutWrite_of_write {s : State} {r : Running} {a : Addr} {b : Byte} {k : State → State}
    (h : s.phase = .exec r) (ha : action r s = .wr a b k) :
    cutWrite s = { s with sensor := s.sensor.store a b } := by simp [cutWrite, h, ha]

/-- At every other event there is nothing to cut. -/
theorem cutWrite_of_noWrite {s : State} {r : Running} (h : s.phase = .exec r)
    (hw : ∀ a b k, action r s ≠ .wr a b k) : cutWrite s = s := by
  unfold cutWrite
  rw [h]
  cases ha : action r s with
  | wr a b k => exact absurd ha (hw a b k)
  | _ => simp [ha]

/-! ## Executing a command -/

/-- A bus command with INIT = 1 begins and runs on the inputs (R173, R32). -/
theorem busCommand_init {s : State} (h : s.init = true) (r : Running) :
    busCommand r s = .next (run s.inputs (enter r (accept s))) := by simp [busCommand, h, resume]

/-- A bus command with INIT = 0 ends at once (R173). -/
theorem busCommand_notInit {s : State} (h : s.init = false) (r : Running) :
    busCommand r s = .next (endCommand (some r.op) .notInit (accept s)) := by simp [busCommand, h]

/-- Everything the execution of a command can be: a bus command that runs from its first point, one refused for
want of INIT, BEGIN with either verdict, or MSHIFT. -/
theorem exec_cases {i : Instr} {s t : State} (h : exec i s = .next t) :
    (usesBus i = true ∧ s.init = true ∧
      ∃ r, r.op = i ∧ r.index = 0 ∧ t = run s.inputs (enter r (accept s))) ∨
    (usesBus i = true ∧ s.init = false ∧ t = endCommand (some i) .notInit (accept s)) ∨
    (i = .begin ∧ configOk s.config = true ∧
      t = endCommand (some .begin) .ok { accept s with init := true }) ∨
    (i = .begin ∧ configOk s.config = false ∧
      t = endCommand (some .begin) .configError { accept s with init := false }) ∨
    ∃ m, i = .mshift m ∧
      t = endCommand (some (.mshift m)) .ok { accept s with result := zext32 (maskShift m) } := by
  cases i with
  | begin =>
    rw [exec, execBegin] at h
    split at h <;> rename_i hc <;> cases h
    · exact .inr (.inr (.inl ⟨rfl, hc, rfl⟩))
    · exact .inr (.inr (.inr (.inl ⟨rfl, Bool.eq_false_iff.2 hc, rfl⟩)))
  | mshift m => cases h; exact .inr (.inr (.inr (.inr ⟨m, rfl, rfl⟩)))
  | _ =>
    simp only [exec, execRdf, execWrf, execCalrco, execCalres, execRstdef, execRdenergy] at h
    cases hi : s.init with
    | true => rw [busCommand_init hi] at h; cases h; exact .inl ⟨rfl, rfl, _, rfl, rfl, rfl⟩
    | false => rw [busCommand_notInit hi] at h; cases h; exact .inr (.inl ⟨rfl, rfl, rfl⟩)

end Sys2Proof.Machine
end

