-- ==== Sys2Proof/Laws/Events.lean ====
section
/-! SUPPORT. Everything one event of a command can do, one lemma per point of the pseudocode: where the next event
is a transaction, what follows each answer. A proof about every event splits on the point, rewrites with its lemma
and never unfolds `perform`. -/

namespace Sys2Proof.Machine

theorem perform_of_rd {r : Running} {d : Draw} {s : State} {a : Addr} {k : Byte → State → State}
    (ha : action r s = .rd a k) :
    perform r d s =
      match s.sensor.readAnswer a d with
      | some b => k b (record (.rd a (some b)) s)
      | none => endCommand (some r.op) .transportError (record (.rd a none) s) := by
  rw [perform, ha]
  cases h : s.sensor.readAnswer a d with
  | some b => exact perform_rd_ok _ _ _ h
  | none => exact perform_rd_err _ _ _ h

theorem perform_of_wr {r : Running} {d : Draw} {s : State} {a : Addr} {b : Byte} {k : State → State}
    (ha : action r s = .wr a b k) :
    perform r d s =
      if s.sensor.writeAnswer d then k (record (.wr a b true) (deliver a b true s))
      else endCommand (some r.op) .transportError (record (.wr a b false) s) := by
  rw [perform, ha]
  cases h : s.sensor.writeAnswer d with
  | true => exact perform_wr_ok _ _ _ h
  | false => exact perform_wr_err _ _ _ h

/-! ## RDF, WRF -/

@[simp] theorem perform_rdf (a : Addr) (m : Byte) (d : Draw) (s : State) :
    perform (.rdf a m) d s =
      match s.sensor.readAnswer a d with
      | some b => finish (.rdf a m) { record (.rd a (some b)) s with result := zext32 (extractField m b) }
      | none => endCommand (some (.rdf a m)) .transportError (record (.rd a none) s) :=
  Eq.trans (perform_of_rd rfl) rfl

@[simp] theorem perform_wrf_read (a : Addr) (m v : Byte) (d : Draw) (s : State) :
    perform (.wrf a m v .read) d s =
      match s.sensor.readAnswer a d with
      | some b => goOn (.wrf a m v (.write b)) (record (.rd a (some b)) s)
      | none => endCommand (some (.wrf a m v)) .transportError (record (.rd a none) s) :=
  Eq.trans (perform_of_rd rfl) rfl

@[simp] theorem perform_wrf_write (a : Addr) (m v b : Byte) (d : Draw) (s : State) :
    perform (.wrf a m v (.write b)) d s =
      if s.sensor.writeAnswer d then
        finish (.wrf a m v)
          (record (.wr a (insertField m v b) true) (deliver a (insertField m v b) true s))
      else endCommand (some (.wrf a m v)) .transportError
        (record (.wr a (insertField m v b) false) s) :=
  Eq.trans (perform_of_wr rfl) rfl

/-! ## CALRCO -/

@[simp] theorem perform_calrco_power (d : Draw) (s : State) :
    perform (.calrco .power) d s =
      match s.sensor.readAnswer fPowerDown.addr d with
      | some b => if extractField fPowerDown.mask b = 1 then
          endCommand (some .calrco) .poweredDown (record (.rd fPowerDown.addr (some b)) s)
        else goOn (.calrco (.trigger .read)) (record (.rd fPowerDown.addr (some b)) s)
      | none => endCommand (some .calrco) .transportError (record (.rd fPowerDown.addr none) s) :=
  Eq.trans (perform_of_rd rfl) rfl

@[simp] theorem perform_calrco_trigger_read (d : Draw) (s : State) :
    perform (.calrco (.trigger (Rmw.read))) d s =
      match s.sensor.readAnswer fCalibRco.addr d with
      | some b => goOn (.calrco (.trigger (Rmw.write b))) (record (.rd fCalibRco.addr (some b)) s)
      | none => endCommand (some .calrco) .transportError (record (.rd fCalibRco.addr none) s) :=
  Eq.trans (perform_of_rd rfl) rfl

@[simp] theorem perform_calrco_trigger_write (b : Byte) (d : Draw) (s : State) :
    perform (.calrco (.trigger (Rmw.write b))) d s =
      if s.sensor.writeAnswer d then
        goOn (.calrco (.showSrco .read))
          (record (.wr fCalibRco.addr (insertField fCalibRco.mask directCmd b) true)
            (deliver fCalibRco.addr (insertField fCalibRco.mask directCmd b) true s))
      else endCommand (some .calrco) .transportError
        (record (.wr fCalibRco.addr (insertField fCalibRco.mask directCmd b) false) s) :=
  Eq.trans (perform_of_wr rfl) rfl

@[simp] theorem perform_calrco_show_read (d : Draw) (s : State) :
    perform (.calrco (.showSrco (Rmw.read))) d s =
      match s.sensor.readAnswer fDispSrco.addr d with
      | some b => goOn (.calrco (.showSrco (Rmw.write b))) (record (.rd fDispSrco.addr (some b)) s)
      | none => endCommand (some .calrco) .transportError (record (.rd fDispSrco.addr none) s) :=
  Eq.trans (perform_of_rd rfl) rfl

@[simp] theorem perform_calrco_show_write (b : Byte) (d : Draw) (s : State) :
    perform (.calrco (.showSrco (Rmw.write b))) d s =
      if s.sensor.writeAnswer d then
        goOn (.calrco .settle)
          (record (.wr fDispSrco.addr (insertField fDispSrco.mask 1 b) true)
            (deliver fDispSrco.addr (insertField fDispSrco.mask 1 b) true s))
      else endCommand (some .calrco) .transportError
        (record (.wr fDispSrco.addr (insertField fDispSrco.mask 1 b) false) s) :=
  Eq.trans (perform_of_wr rfl) rfl

@[simp] theorem perform_calrco_settle (d : Draw) (s : State) :
    perform (.calrco .settle) d s =
      goOn (.calrco (.hideSrco .read)) (record (.dly rcoSettleUs) s) := rfl

@[simp] theorem perform_calrco_hide_read (d : Draw) (s : State) :
    perform (.calrco (.hideSrco (Rmw.read))) d s =
      match s.sensor.readAnswer fDispSrco.addr d with
      | some b => goOn (.calrco (.hideSrco (Rmw.write b))) (record (.rd fDispSrco.addr (some b)) s)
      | none => endCommand (some .calrco) .transportError (record (.rd fDispSrco.addr none) s) :=
  Eq.trans (perform_of_rd rfl) rfl

@[simp] theorem perform_calrco_hide_write (b : Byte) (d : Draw) (s : State) :
    perform (.calrco (.hideSrco (Rmw.write b))) d s =
      if s.sensor.writeAnswer d then
        goOn (.calrco .trco)
          (record (.wr fDispSrco.addr (insertField fDispSrco.mask 0 b) true)
            (deliver fDispSrco.addr (insertField fDispSrco.mask 0 b) true s))
      else endCommand (some .calrco) .transportError
        (record (.wr fDispSrco.addr (insertField fDispSrco.mask 0 b) false) s) :=
  Eq.trans (perform_of_wr rfl) rfl

@[simp] theorem perform_calrco_trco (d : Draw) (s : State) :
    perform (.calrco .trco) d s =
      match s.sensor.readAnswer fTrcoNok.addr d with
      | some b => goOn (.calrco (.srco (extractField fTrcoNok.mask b))) (record (.rd fTrcoNok.addr (some b)) s)
      | none => endCommand (some .calrco) .transportError (record (.rd fTrcoNok.addr none) s) :=
  Eq.trans (perform_of_rd rfl) rfl

@[simp] theorem perform_calrco_srco (t : Byte) (d : Draw) (s : State) :
    perform (.calrco (.srco t)) d s =
      match s.sensor.readAnswer fSrcoNok.addr d with
      | some b => rcoVerdict t (extractField fSrcoNok.mask b) (record (.rd fSrcoNok.addr (some b)) s)
      | none => endCommand (some .calrco) .transportError (record (.rd fSrcoNok.addr none) s) :=
  Eq.trans (perform_of_rd rfl) rfl

/-! ## CALRES -/

@[simp] theorem perform_calres_power (q : BitVec 2) (d : Draw) (s : State) :
    perform (.calres q .power) d s =
      match s.sensor.readAnswer fPowerDown.addr d with
      | some b => if extractField fPowerDown.mask b = 1 then
          endCommand (some (.calres q)) .poweredDown (record (.rd fPowerDown.addr (some b)) s)
        else goOn (.calres q (.div .read)) (record (.rd fPowerDown.addr (some b)) s)
      | none => endCommand (some (.calres q)) .transportError (record (.rd fPowerDown.addr none) s) :=
  Eq.trans (perform_of_rd rfl) rfl

@[simp] theorem perform_calres_div_read (q : BitVec 2) (d : Draw) (s : State) :
    perform (.calres q (.div (Rmw.read))) d s =
      match s.sensor.readAnswer fDivRatio.addr d with
      | some b => goOn (.calres q (.div (Rmw.write b))) (record (.rd fDivRatio.addr (some b)) s)
      | none => endCommand (some (.calres q)) .transportError (record (.rd fDivRatio.addr none) s) :=
  Eq.trans (perform_of_rd rfl) rfl

@[simp] theorem perform_calres_div_write (q : BitVec 2) (b : Byte) (d : Draw) (s : State) :
    perform (.calres q (.div (Rmw.write b))) d s =
      if s.sensor.writeAnswer d then
        goOn (.calres q (.tune .read)) (scanInit q
          (record (.wr fDivRatio.addr (insertField fDivRatio.mask (q.setWidth 8) b) true)
            (deliver fDivRatio.addr (insertField fDivRatio.mask (q.setWidth 8) b) true s)))
      else endCommand (some (.calres q)) .transportError
        (record (.wr fDivRatio.addr (insertField fDivRatio.mask (q.setWidth 8) b) false) s) :=
  Eq.trans (perform_of_wr rfl) rfl

@[simp] theorem perform_calres_tune_read (q : BitVec 2) (d : Draw) (s : State) :
    perform (.calres q (.tune (Rmw.read))) d s =
      match s.sensor.readAnswer fTuneCap.addr d with
      | some b => goOn (.calres q (.tune (Rmw.write b))) (record (.rd fTuneCap.addr (some b)) s)
      | none => endCommand (some (.calres q)) .transportError (record (.rd fTuneCap.addr none) s) :=
  Eq.trans (perform_of_rd rfl) rfl

@[simp] theorem perform_calres_tune_write (q : BitVec 2) (b : Byte) (d : Draw) (s : State) :
    perform (.calres q (.tune (Rmw.write b))) d s =
      if s.sensor.writeAnswer d then
        goOn (.calres q .settleB)
          (record (.wr fTuneCap.addr (insertField fTuneCap.mask (s.work.i.setWidth 8) b) true)
            (deliver fTuneCap.addr (insertField fTuneCap.mask (s.work.i.setWidth 8) b) true s))
      else endCommand (some (.calres q)) .transportError
        (record (.wr fTuneCap.addr (insertField fTuneCap.mask (s.work.i.setWidth 8) b) false) s) :=
  Eq.trans (perform_of_wr rfl) rfl

@[simp] theorem perform_calres_settleB (q : BitVec 2) (d : Draw) (s : State) :
    perform (.calres q .settleB) d s =
      goOn (.calres q (.showLco .read)) (record (.dly s.config.tuneSettleB) s) := rfl

@[simp] theorem perform_calres_show_read (q : BitVec 2) (d : Draw) (s : State) :
    perform (.calres q (.showLco (Rmw.read))) d s =
      match s.sensor.readAnswer fDispLco.addr d with
      | some b => goOn (.calres q (.showLco (Rmw.write b))) (record (.rd fDispLco.addr (some b)) s)
      | none => endCommand (some (.calres q)) .transportError (record (.rd fDispLco.addr none) s) :=
  Eq.trans (perform_of_rd rfl) rfl

@[simp] theorem perform_calres_show_write (q : BitVec 2) (b : Byte) (d : Draw) (s : State) :
    perform (.calres q (.showLco (Rmw.write b))) d s =
      if s.sensor.writeAnswer d then
        goOn (.calres q .settleD)
          (record (.wr fDispLco.addr (insertField fDispLco.mask 1 b) true)
            (deliver fDispLco.addr (insertField fDispLco.mask 1 b) true s))
      else endCommand (some (.calres q)) .transportError
        (record (.wr fDispLco.addr (insertField fDispLco.mask 1 b) false) s) :=
  Eq.trans (perform_of_wr rfl) rfl

@[simp] theorem perform_calres_settleD (q : BitVec 2) (d : Draw) (s : State) :
    perform (.calres q .settleD) d s =
      goOn (.calres q .windowStart) (record (.dly s.config.tuneSettleD) s) := rfl

@[simp] theorem perform_calres_start (q : BitVec 2) (d : Draw) (s : State) :
    perform (.calres q .windowStart) d s =
      goOn (.calres q .windowRef) { record (.clk d.millis) s with work.t0 := d.millis } := rfl

@[simp] theorem perform_calres_ref (q : BitVec 2) (d : Draw) (s : State) :
    perform (.calres q .windowRef) d s =
      goOn (.calres q .windowClock)
        (windowReference (pinLevel s.config d) (record (.pin (pinLevel s.config d)) s)) := rfl

@[simp] theorem perform_calres_clock (q : BitVec 2) (d : Draw) (s : State) :
    perform (.calres q .windowClock) d s =
      if windowOpen d.millis s.work.t0 then goOn (.calres q .windowPin) (record (.clk d.millis) s)
      else goOn (.calres q (.hideLco .read)) (record (.clk d.millis) s) := rfl

@[simp] theorem perform_calres_pin (q : BitVec 2) (d : Draw) (s : State) :
    perform (.calres q .windowPin) d s =
      windowSample q (pinLevel s.config d) (record (.pin (pinLevel s.config d)) s) := rfl

@[simp] theorem perform_calres_hide_read (q : BitVec 2) (d : Draw) (s : State) :
    perform (.calres q (.hideLco (Rmw.read))) d s =
      match s.sensor.readAnswer fDispLco.addr d with
      | some b => goOn (.calres q (.hideLco (Rmw.write b))) (record (.rd fDispLco.addr (some b)) s)
      | none => endCommand (some (.calres q)) .transportError (record (.rd fDispLco.addr none) s) :=
  Eq.trans (perform_of_rd rfl) rfl

@[simp] theorem perform_calres_hide_write (q : BitVec 2) (b : Byte) (d : Draw) (s : State) :
    perform (.calres q (.hideLco (Rmw.write b))) d s =
      if s.sensor.writeAnswer d then
        scanNext q
          (record (.wr fDispLco.addr (insertField fDispLco.mask 0 b) true)
            (deliver fDispLco.addr (insertField fDispLco.mask 0 b) true s))
      else endCommand (some (.calres q)) .transportError
        (record (.wr fDispLco.addr (insertField fDispLco.mask 0 b) false) s) :=
  Eq.trans (perform_of_wr rfl) rfl

@[simp] theorem perform_calres_best_read (q : BitVec 2) (d : Draw) (s : State) :
    perform (.calres q (.best (Rmw.read))) d s =
      match s.sensor.readAnswer fTuneCap.addr d with
      | some b => goOn (.calres q (.best (Rmw.write b))) (record (.rd fTuneCap.addr (some b)) s)
      | none => endCommand (some (.calres q)) .transportError (record (.rd fTuneCap.addr none) s) :=
  Eq.trans (perform_of_rd rfl) rfl

@[simp] theorem perform_calres_best_write (q : BitVec 2) (b : Byte) (d : Draw) (s : State) :
    perform (.calres q (.best (Rmw.write b))) d s =
      if s.sensor.writeAnswer d then
        scanVerdict q
          (record (.wr fTuneCap.addr (insertField fTuneCap.mask (s.work.bestSetting.setWidth 8) b) true)
            (deliver fTuneCap.addr (insertField fTuneCap.mask (s.work.bestSetting.setWidth 8) b) true s))
      else endCommand (some (.calres q)) .transportError
        (record (.wr fTuneCap.addr (insertField fTuneCap.mask (s.work.bestSetting.setWidth 8) b) false) s) :=
  Eq.trans (perform_of_wr rfl) rfl

/-! ## RSTDEF, RDENERGY -/

@[simp] theorem perform_rstdef_trigger_read (d : Draw) (s : State) :
    perform (.rstdef (.trigger (Rmw.read))) d s =
      match s.sensor.readAnswer fPresetDefault.addr d with
      | some b => goOn (.rstdef (.trigger (Rmw.write b))) (record (.rd fPresetDefault.addr (some b)) s)
      | none => endCommand (some .rstdef) .transportError (record (.rd fPresetDefault.addr none) s) :=
  Eq.trans (perform_of_rd rfl) rfl

@[simp] theorem perform_rstdef_trigger_write (b : Byte) (d : Draw) (s : State) :
    perform (.rstdef (.trigger (Rmw.write b))) d s =
      if s.sensor.writeAnswer d then
        goOn (.rstdef .settle)
          (record (.wr fPresetDefault.addr (insertField fPresetDefault.mask directCmd b) true)
            (deliver fPresetDefault.addr (insertField fPresetDefault.mask directCmd b) true s))
      else endCommand (some .rstdef) .transportError
        (record (.wr fPresetDefault.addr (insertField fPresetDefault.mask directCmd b) false) s) :=
  Eq.trans (perform_of_wr rfl) rfl

@[simp] theorem perform_rstdef_settle (d : Draw) (s : State) :
    perform (.rstdef .settle) d s =
      finish .rstdef (record (.dly stdSettleUs) s) := rfl

@[simp] theorem perform_rdenergy_lsb (d : Draw) (s : State) :
    perform (.rdenergy .lsb) d s =
      match s.sensor.readAnswer fEnergyL.addr d with
      | some b => goOn (.rdenergy (.msb (extractField fEnergyL.mask b))) (record (.rd fEnergyL.addr (some b)) s)
      | none => endCommand (some .rdenergy) .transportError (record (.rd fEnergyL.addr none) s) :=
  Eq.trans (perform_of_rd rfl) rfl

@[simp] theorem perform_rdenergy_msb (lo : Byte) (d : Draw) (s : State) :
    perform (.rdenergy (.msb lo)) d s =
      match s.sensor.readAnswer fEnergyM.addr d with
      | some b => goOn (.rdenergy (.mmsb lo (extractField fEnergyM.mask b))) (record (.rd fEnergyM.addr (some b)) s)
      | none => endCommand (some .rdenergy) .transportError (record (.rd fEnergyM.addr none) s) :=
  Eq.trans (perform_of_rd rfl) rfl

@[simp] theorem perform_rdenergy_mmsb (lo mi : Byte) (d : Draw) (s : State) :
    perform (.rdenergy (.mmsb lo mi)) d s =
      match s.sensor.readAnswer fEnergyMM.addr d with
      | some b => finish .rdenergy
          { record (.rd fEnergyMM.addr (some b)) s with result := energy lo mi (extractField fEnergyMM.mask b) }
      | none => endCommand (some .rdenergy) .transportError (record (.rd fEnergyMM.addr none) s) :=
  Eq.trans (perform_of_rd rfl) rfl

end Sys2Proof.Machine
end

