-- ==== Sys2Proof/Laws/Calibration.lean ====
section
/-! SUPPORT. The steps of the calibrations that decide, one lemma per outcome: a sample of a window (R123, R128),
step g and the end of a round (R129, R130), and the two verdicts (R121, R127). -/

namespace Sys2Proof.Machine

/-! ## A sample of a window -/

section sample
variable {d : BitVec 2} {l : Bool} {s : State}

/-- The level has not changed: nothing is counted. -/
theorem windowSample_same (h : l = s.work.prev) : windowSample d l s = goOn (.calres d .windowClock) s := by
  subst h; simp [windowSample]

/-- The level has changed: the edge is counted. -/
theorem windowSample_edge (h : l ≠ s.work.prev) (hc : s.work.count ≠ countMax) :
    windowSample d l s =
      goOn (.calres d .windowClock) { s with work.count := s.work.count + 1, work.prev := l } := by
  simp [windowSample, h, hc]

/-- The level has changed and the count is at its largest: the command ends. -/
theorem windowSample_overflow (h : l ≠ s.work.prev) (hc : s.work.count = countMax) :
    windowSample d l s = endCommand (some (.calres d)) .countOverflow s := by
  simp [windowSample, h, hc]

end sample

/-! ## Step g -/

/-- A difference strictly below the best so far is recorded. -/
theorem scanRecord_better {w : CalWork} (h : (diffOf w.target w.count).toNat < w.bestDiff.toNat) :
    scanRecord w =
      { w with bestDiff := diffOf w.target w.count, bestSetting := w.i.setWidth 4, bestCount := w.count } := by
  simp [scanRecord, h]

/-- Any other is not: ties keep the earlier setting. -/
theorem scanRecord_keeps {w : CalWork} (h : ¬ (diffOf w.target w.count).toNat < w.bestDiff.toNat) :
    scanRecord w = w := by
  simp [scanRecord, h]

/-- Before setting 15 the scan goes on with the next setting. -/
theorem scanNext_goes_on {d : BitVec 2} {s : State} (h : s.work.i.toNat + 1 < nTune) :
    scanNext d s =
      goOn (.calres d (.tune .read)) { s with work := { scanRecord s.work with i := s.work.i + 1 } } := by
  simp [scanNext, h]

/-- After setting 15 the best is written back. -/
theorem scanNext_ends {d : BitVec 2} {s : State} (h : ¬ s.work.i.toNat + 1 < nTune) :
    scanNext d s =
      goOn (.calres d (.best .read)) { s with work := { scanRecord s.work with i := s.work.i + 1 } } := by
  simp [scanNext, h]

/-! ## The verdicts -/

theorem scanVerdict_ok {d : BitVec 2} {s : State} (h : s.work.bestDiff.toNat < s.work.threshold.toNat) :
    scanVerdict d s =
      endCommand (some (.calres d)) .ok
        { s with
          calSetting := s.work.bestSetting
          calCount := s.work.bestCount
          calDiff := s.work.bestDiff
          calSuccess := true } := by
  simp [scanVerdict, h]

theorem scanVerdict_fail {d : BitVec 2} {s : State} (h : ¬ s.work.bestDiff.toNat < s.work.threshold.toNat) :
    scanVerdict d s =
      endCommand (some (.calres d)) .calFail
        { s with
          calSetting := s.work.bestSetting
          calCount := s.work.bestCount
          calDiff := s.work.bestDiff } := by
  simp [scanVerdict, h]

theorem rcoVerdict_ok (s : State) :
    rcoVerdict 0 0 s = endCommand (some .calrco) .ok { s with calSuccess := true } := by simp [rcoVerdict]

theorem rcoVerdict_fail {t u : Byte} (h : ¬ (t = 0 ∧ u = 0)) (s : State) :
    rcoVerdict t u s = endCommand (some .calrco) .calFail s := by
  unfold rcoVerdict; rw [if_neg h]

/-! ## The arithmetic -/

theorem targetOf_bounds (d : BitVec 2) : 781 ≤ (targetOf d).toNat ∧ (targetOf d).toNat ≤ 6250 := by
  revert d; decide

theorem targetOf_toNat (d : BitVec 2) : (targetOf d).toNat = 100000 / (16 * 2 ^ d.toNat) := by
  revert d; decide

theorem thresholdOf_toNat (d : BitVec 2) : (thresholdOf (targetOf d)).toNat = (targetOf d).toNat * 35 / 1000 := by
  revert d; decide

/-- The difference of a count below 2^31 is exact and below 2^31 (R31, R128). -/
theorem diffOf_toNat (d : BitVec 2) {c : Word} (h : c.toNat < 2 ^ 31) :
    (diffOf (targetOf d) c).toNat = distance (targetOf d).toNat c.toNat ∧
      (diffOf (targetOf d) c).toNat < 2 ^ 31 := by
  have ht := targetOf_bounds d
  have hc : c.toInt = c.toNat := by rw [BitVec.toInt_eq_toNat_cond, if_pos (by omega)]
  have hn : ((targetOf d).toNat - (c.toNat : Int)).natAbs < 2 ^ 31 := by omega
  simp only [diffOf, hc, BitVec.toNat_ofNat, distance]
  rw [Nat.mod_eq_of_lt (by omega)]
  exact ⟨rfl, hn⟩

/-- 2^31 - 1 is the count of that value and no other. -/
theorem countMax_iff (c : Word) : c = countMax ↔ c.toNat = 2 ^ 31 - 1 :=
  ⟨fun h => by rw [h]; rfl, fun h => BitVec.eq_of_toNat_eq h⟩

end Sys2Proof.Machine
end

