-- ==== Sys2Proof/Laws/PerInstr.lean ====
section
/-! SUPPORT. The per-instruction family WordWellFormed: the fields of a command's word are well formed, with the
command's opcode (spec/30_encoding.md R71, R73). -/

namespace Sys2Proof.Laws.WordWellFormed

open Sys2Proof

/-- OP of R73. -/
def opcode : Instr → Nat
  | .begin => 1
  | .mshift _ => 2
  | .rdf _ _ => 3
  | .wrf _ _ _ => 4
  | .calrco => 5
  | .calres _ => 6
  | .rstdef => 7
  | .rdenergy => 8

/-- The word of i has well-formed fields, and OP is that of i's row. -/
def Statement (i : Instr) : Prop := i.wellFormed = true ∧ (formatC (encode i)).op = opcode i

/-- The fields of a packed word are the ones put into it. -/
theorem formatC_packC (op : BitVec 4) (a : Addr) (m v : Byte) :
    formatC (packC op a m v) =
      { op := op.toNat, rsv := 0, addr := a.toNat, mask := m.toNat, val := v.toNat } := by
  have h : ∀ x : Word, x = packC op a m v →
      opField x = op ∧ rsvField x = 0 ∧ addrField x = a ∧ maskField x = m ∧ valField x = v := by
    intro x hx
    subst hx
    refine ⟨?_, ?_, ?_, ?_, ?_⟩ <;>
      · apply BitVec.eq_of_getLsbD_eq
        intro i hi
        simp only [opField, rsvField, addrField, maskField, valField, packC, BitVec.getLsbD_extractLsb',
          BitVec.getLsbD_append]
        interval_cases i <;> simp
  obtain ⟨h1, h2, h3, h4, h5⟩ := h _ rfl
  simp [formatC, h1, h2, h3, h4, h5]

theorem begin : Statement .begin := ⟨by decide, by decide⟩

theorem mshift (m : Byte) : Statement (.mshift m) := by
  have := m.isLt
  simp [Statement, Instr.wellFormed, encode, formatC_packC, opcode, FormatC.wellFormed, FormatC.opAssigned,
    FormatC.rsvZero, FormatC.addrFits, FormatC.maskFits, FormatC.valFits, this]

theorem rdf (a : Addr) (m : Byte) : Statement (.rdf a m) := by
  have := a.isLt
  have := m.isLt
  simp [Statement, Instr.wellFormed, encode, formatC_packC, opcode, FormatC.wellFormed, FormatC.opAssigned,
    FormatC.rsvZero, FormatC.addrFits, FormatC.maskFits, FormatC.valFits, *]

theorem wrf (a : Addr) (m v : Byte) : Statement (.wrf a m v) := by
  have := a.isLt
  have := m.isLt
  have := v.isLt
  simp [Statement, Instr.wellFormed, encode, formatC_packC, opcode, FormatC.wellFormed, FormatC.opAssigned,
    FormatC.rsvZero, FormatC.addrFits, FormatC.maskFits, FormatC.valFits, *]

theorem calrco : Statement .calrco := ⟨by decide, by decide⟩

theorem calres (d : BitVec 2) : Statement (.calres d) := by
  unfold Statement; revert d; decide

theorem rstdef : Statement .rstdef := ⟨by decide, by decide⟩

theorem rdenergy : Statement .rdenergy := ⟨by decide, by decide⟩

end Sys2Proof.Laws.WordWellFormed
end

