-- ==== Sys2Proof/Laws/Step.lean ====
section
/-! SUPPORT. What one step is, one lemma per job of the block (`nextJob`), so that no proof unfolds `step`. -/

namespace Sys2Proof.Machine

variable {s : State}

/-- Reset is asserted (R195, R197). -/
theorem step_reset {b : Bool} {rest : List Input} (h : s.inputs = .reset b :: rest) :
    step s = .next (takeReset b { s with inputs := rest }) := by simp [step, nextJob, h]

/-- A command in execution goes on (R32). -/
theorem step_exec {r : Running} (h : s.phase = .exec r) (hr : ∀ b rest, s.inputs ≠ .reset b :: rest) :
    step s = .next (resume s) := by
  simp only [step, nextJob]
  split <;> simp_all

/-- In IDLE the next word of the host that is a command is executed (R70). -/
theorem step_take {w : Word} {ws : List Word} {i : Instr} (h : s.phase = .idle)
    (hr : ∀ b rest, s.inputs ≠ .reset b :: rest) (hw : s.hostPort = w :: ws) (hd : decode w = .ok i) :
    step s = exec i { s with hostPort := ws } := by
  simp only [step, nextJob]
  split <;> simp_all

/-- In IDLE the next word of the host that is no command is ILLEGAL (R174). -/
theorem step_illegal {w : Word} {ws : List Word} {e : Illegal} (h : s.phase = .idle)
    (hr : ∀ b rest, s.inputs ≠ .reset b :: rest) (hw : s.hostPort = w :: ws) (hd : decode w = .error e) :
    step s = .next (illegalWord { s with hostPort := ws }) := by
  simp only [step, nextJob]
  split <;> simp_all

/-- In IDLE with no word offered nothing changes (R196). -/
theorem step_nothing (h : s.phase = .idle) (hr : ∀ b rest, s.inputs ≠ .reset b :: rest)
    (hw : s.hostPort = []) : step s = .next s := by
  simp only [step, nextJob]
  split <;> simp_all

end Sys2Proof.Machine
end

