-- ==== Sys2Proof/Tests/Slice0.lean ====
section
/-! SUPPORT. The model's own tests: the smoke test of WellFormed, decode tests by words written out from
spec/30_encoding.md, one or two tests a command with the results spec/95_test_vectors.md gives, and for every
obligation with hypotheses a witness that meets them. -/

namespace Sys2Proof.Tests

open Sys2Proof Sys2Proof.Machine

/-! ## WellFormed: an ill-formed term for each check -/

/-- OP 0x9 is assigned to no command (R75). -/
theorem test_smoke_op : FormatC.wellFormed ⟨9, 0, 0, 0, 0⟩ = false := by decide
theorem test_smoke_op_zero : FormatC.wellFormed ⟨0, 0, 0, 0, 0⟩ = false := by decide
/-- WRF with RSV non-zero (R75). -/
theorem test_smoke_rsv : FormatC.wellFormed ⟨4, 16, 0, 0, 0⟩ = false := by decide
/-- RDF at address 64, and MSHIFT with an address (R78, R73). -/
theorem test_smoke_addr : FormatC.wellFormed ⟨3, 0, 64, 1, 0⟩ = false := by decide
theorem test_smoke_addr_zero : FormatC.wellFormed ⟨2, 0, 1, 0, 0⟩ = false := by decide
/-- MSHIFT of 256, and CALRCO with a mask (R78, R73). -/
theorem test_smoke_mask : FormatC.wellFormed ⟨2, 0, 0, 256, 0⟩ = false := by decide
theorem test_smoke_mask_zero : FormatC.wellFormed ⟨5, 0, 0, 1, 0⟩ = false := by decide
/-- WRF of 256, CALRES of 4, RDF with a value (R78, R73). -/
theorem test_smoke_val : FormatC.wellFormed ⟨4, 0, 1, 1, 256⟩ = false := by decide
theorem test_smoke_val_div : FormatC.wellFormed ⟨6, 0, 0, 0, 4⟩ = false := by decide
theorem test_smoke_val_zero : FormatC.wellFormed ⟨3, 0, 1, 1, 1⟩ = false := by decide
/-- And a well-formed one: WRF 0x3F, 0xFF, 0xFF. -/
theorem test_smoke_well_formed : FormatC.wellFormed ⟨4, 0, 63, 255, 255⟩ = true := by decide

/-! ## Decode: words written out bit by bit as OP, RSV, ADDR, MASK, VAL (R71, R73) -/

theorem test_decode_begin : decode 0b0001_000000_000000_00000000_00000000 = .ok .begin := by decide
theorem test_decode_mshift : decode 0b0010_000000_000000_01110000_00000000 = .ok (.mshift 0x70) := by decide
theorem test_decode_rdf : decode 0b0011_000000_000001_01110000_00000000 = .ok (.rdf 0x01 0x70) := by decide
theorem test_decode_wrf : decode 0b0100_000000_000001_01110000_00000101 = .ok (.wrf 0x01 0x70 5) := by decide
theorem test_decode_calrco : decode 0b0101_000000_000000_00000000_00000000 = .ok .calrco := by decide
theorem test_decode_calres : decode 0b0110_000000_000000_00000000_00000011 = .ok (.calres 3) := by decide
theorem test_decode_rstdef : decode 0b0111_000000_000000_00000000_00000000 = .ok .rstdef := by decide
theorem test_decode_rdenergy : decode 0b1000_000000_000000_00000000_00000000 = .ok .rdenergy := by decide

/-- The ILLEGAL words of spec/95_test_vectors.md §2.8, each by the condition of R75 it meets. -/
theorem test_decode_illegal :
    ([0x00000000, 0x90000000, 0xF0000000, 0xFFFFFFFF].all fun w : Word => decode w == .error .reservedOpcode) ∧
    ([0x10400000, 0x30800000, 0x44000000, 0x7FFFFFFF].all fun w : Word => decode w == .error .reservedBits) ∧
    ([0x10000001, 0x20010000, 0x20000001, 0x30000001, 0x50000100, 0x60000004, 0x60010000, 0x80000080,
      0x20FF0000].all fun w : Word => (decode? w).isNone) := by decide

/-- The words of R78's table and §2.2 of the vectors. -/
theorem test_encode : encode (.wrf 0x3F 0x81 3) = 0x403F8103 ∧ encode (.rdf 0x10 0xA0) = 0x3010A000 := by decide

/-- The table's numbering: RDENERGY is 32 bits long and its word is the number itself. -/
theorem test_table_word : decodeTableWord 32 0x80000000 = some .rdenergy := by decide

/-! ## Assembler (R78 to R80) -/

theorem test_assemble_wrf : assembleLine "WRF 0x01, 0x70, 5 ; noise floor".toList = .word 0x40017005 := by decide
theorem test_assemble_symbol : assembleLine "CALRES DIV64".toList = .word 0x60000002 := by decide
theorem test_assemble_pseudo : assembleLine "WRMINL MINL9".toList = .word 0x40023002 := by decide
/-- a >= 64 and a WDOG_TH of 11 are refused. -/
theorem test_assemble_refuses :
    assembleLine "RDF 64, 0".toList = .refused ∧ assembleLine "WRWDTH 11".toList = .refused := by decide

/-! ## Running one command -/

/-- A draw that answers Ok, with a byte. -/
def gives (b : Byte) : Draw := ⟨true, b, 0, 0⟩

/-- A draw that answers Err. -/
def errs : Draw := ⟨false, 0, 0, 0⟩

/-- A draw of the clock, and one of the pins. -/
def clock (t : Word) : Draw := ⟨true, 0, t, 0⟩
def pins (l : BitVec 256) : Draw := ⟨true, 0, 0, l⟩

/-- After reset and BEGIN, under the free oracle, with these answers to come. -/
def boot (ds : List Draw) : State := { State.reset with init := true, inputs := answering ds }

/-- The same under SIM. -/
def simBoot (mem : Memory) (ds : List Draw) : State := { boot ds with sensor := .sim mem }

/-- The outcome is a next state with p. -/
def nextIs (o : Host.Outcome State Fault Refusal) (p : State → Bool) : Bool :=
  match o with
  | .next t => p t
  | .fault _ => false
  | .refused _ => false

/-- S7: BUS_ADDR 0 under I2C is a configuration error; under SPI it is not checked (§2.3). -/
theorem test_begin_refused :
    nextIs (exec .begin { State.reset with config.busAddr := 0 }) fun t =>
      t.status == 0x83 && !t.init && t.trace == [] := by decide
theorem test_begin_spi :
    nextIs (exec .begin { State.reset with config.busAddr := 0xFF, config.xportSel := .spi }) fun t =>
      t.status == 0x00 && t.init := by decide

/-- §2.1, with INIT = 0. -/
theorem test_mshift : nextIs (exec (.mshift 0x70) State.reset) fun t => t.result == 4 && t.status == 0x00 := by
  decide
theorem test_mshift_corners :
    maskShift 0x00 = 0 ∧ maskShift 0x80 = 7 ∧ maskShift 0xFF = 0 ∧ maskShift 0xA0 = 5 ∧ maskShift 0x3E = 1 := by
  decide

/-- §2.2, first row; and the guard vector with INIT = 0. -/
theorem test_rdf :
    nextIs (exec (.rdf 0x01 0x70) (simBoot [(1, 0xB5)] [gives 0])) fun t =>
      t.result == 3 && t.status == 0x00 && t.trace == [.rd 0x01 (some 0xB5)] := by decide
theorem test_rdf_not_init :
    nextIs (exec (.rdf 0x01 0x70) State.reset) fun t => t.status == 0x82 && t.trace == [] := by decide

/-- §2.2, first row; and the value wider than its field. -/
theorem test_wrf :
    nextIs (exec (.wrf 0x01 0x70 5) (simBoot [(1, 0xB5)] [gives 0, gives 0])) fun t =>
      t.sensor == .sim [(1, 0xD5)] && t.trace == [.rd 0x01 (some 0xB5), .wr 0x01 0xD5 true] := by decide
theorem test_wrf_wide :
    nextIs (exec (.wrf 0x01 0x70 0x0F) (simBoot [(1, 0x8F)] [gives 0, gives 0])) fun t =>
      t.sensor == .sim [(1, 0xFF)] && t.status == 0x00 := by decide

/-- §2.4: the example of R121, and the 5th transaction that answers Err. -/
theorem test_calrco :
    nextIs (exec .calrco (simBoot [(0, 0x24)] (List.replicate 10 (gives 0)))) fun t =>
      t.calSuccess && t.status == 0x00 && t.sensor == .sim [(0, 0x24), (0x3D, 0x96)] &&
        t.trace.length == 10 := by decide
theorem test_calrco_err :
    nextIs (exec .calrco (boot [gives 0, gives 0, gives 0, gives 0, errs, gives 0])) fun t =>
      !t.calSuccess && t.status == 0x86 && t.trace.getLast? == some (.wr 0x08 0x40 false) := by decide

/-- A window of §2.5 with no sample in its loop (E2), and one whose sample is an edge. -/
def quiet : Window := ⟨clock 1000, pins 1, [], clock 1100⟩
def oneEdge : Window := ⟨clock 1000, pins 0, [(clock 1099, pins 1)], clock 1100⟩

/-- E1 and E4 of §2.5. -/
theorem test_window_e1 :
    Window.closes ⟨clock 1000, pins 0, [(clock 1010, pins 1), (clock 1050, pins 1), (clock 1099, pins 0)],
      clock 1100⟩ = true ∧
    Window.count Config.default ⟨clock 1000, pins 0,
      [(clock 1010, pins 1), (clock 1050, pins 1), (clock 1099, pins 0)], clock 1100⟩ = 2 := by decide
theorem test_window_wraps :
    Window.closes ⟨clock 0xFFFFFFF0, pins 1, [(clock 0xFFFFFFFF, pins 0), (clock 0x53, pins 1)], clock 0x54⟩ =
      true := by decide

/-- The answers of one round of the scan, of a whole CALRES with the window w in every round. -/
def round (w : Window) : ScanRound := ⟨gives 0, gives 0, gives 0, gives 0, gives 0, gives 0, w, gives 0, gives 0⟩
def scan (w : Window) : ScanAnswers := ⟨gives 0, gives 0, gives 0, List.replicate 16 (round w), gives 0, gives 0⟩

/-- K10 of §2.6: no edges in any window. -/
theorem test_calres_no_edges :
    nextIs (exec (.calres 0) (simBoot [] (scan quiet).answers)) fun t =>
      t.status == 0x85 && t.calSetting == 0 && t.calCount == 0 && t.calDiff == 6250 && !t.calSuccess &&
        t.sensor == .sim [] && t.inputs == [] := by decide +kernel

/-- S5: at target 6250 a difference of 217 succeeds and 218 does not. -/
theorem test_calres_threshold :
    (scanVerdict 0 { boot [] with work.bestDiff := 217, work.threshold := thresholdOf 6250 }).calSuccess = true ∧
    (scanVerdict 0 { boot [] with work.bestDiff := 218, work.threshold := thresholdOf 6250 }).status = 0x85 := by
  decide

/-- §2.7: the preset; and the write that answers Err. -/
theorem test_rstdef :
    nextIs (exec .rstdef (boot [gives 0x5A, gives 0, gives 0])) fun t =>
      t.trace == [.rd 0x3C (some 0x5A), .wr 0x3C 0x96 true, .dly 2000] && t.status == 0x00 && t.init := by decide
theorem test_rstdef_err :
    nextIs (exec .rstdef (boot [gives 0, errs, gives 0])) fun t =>
      t.trace == [.rd 0x3C (some 0), .wr 0x3C 0x96 false] && t.status == 0x86 := by decide

/-- S3, with the high nibble of 0x06 masked off (§2.7). -/
theorem test_rdenergy :
    nextIs (exec .rdenergy (boot [gives 0x12, gives 0x34, gives 0xF5])) fun t => t.result == 341010 := by decide
theorem test_rdenergy_err :
    nextIs (exec .rdenergy (boot [gives 0x12, errs, gives 0])) fun t =>
      t.result == 0 && t.status == 0x86 && t.trace == [.rd 0x04 (some 0x12), .rd 0x05 none] := by decide

/-- The first step after reset runs the word placed on the host port. -/
theorem test_first_step : nextIs (step (State.reset.withFetchWord 32 0x20008000)) fun t => t.result == 7 := by decide

/-! ## Witnesses: states and operands that meet the hypotheses of the obligations -/

theorem witness_DecodeOfEncode : (Instr.wrf 0x3F 0xFF 0xFF).wellFormed = true := by decide
theorem witness_EncodeOfDecode : decode 0x403FFFFF = .ok (.wrf 0x3F 0xFF 0xFF) := by decide
theorem witness_DecodeTotalByDisjointRows :
    (∃ r ∈ opRows, r.selects 0x6000_0003 = true) ∧ ∀ r ∈ opRows, r.selects 0x6000_0004 = false := by decide
theorem witness_OperandAssembly :
    decode 0x2000FF00 = .ok (.mshift 0xFF) ∧ decode 0x303FFF00 = .ok (.rdf 0x3F 0xFF) ∧
    decode 0x403FFFFF = .ok (.wrf 0x3F 0xFF 0xFF) ∧ decode 0x60000003 = .ok (.calres 3) := by decide

/-- IDLE, with these words offered. -/
def offered (ws : List Word) : State := { State.reset with hostPort := ws }

theorem notReset_nil (b : Bool) (rest : List Input) : ([] : List Input) ≠ .reset b :: rest := by simp

theorem witness_IllegalWords : ∃ (w : Word) (e : Illegal) (s : State) (ws : List Word),
    decode w = .error e ∧ s.phase = .idle ∧ (∀ b rest, s.inputs ≠ .reset b :: rest) ∧ s.hostPort = w :: ws :=
  ⟨0, .reservedOpcode, offered [0], [], by decide, rfl, notReset_nil, rfl⟩
theorem witness_WellFormedFieldsDecode : (formatC 0x403FFFFF).wellFormed = true := by decide
/-- Lines at both sides of each bound of R78: the mnemonic is the statement's, the operands are the texts. -/
theorem witness_AssemblerNeverTruncates :
    mnemonicOf (code "MSHIFT 255".toList) = "MSHIFT".toList ∧
    mnemonicOf (code "RDF 63, 0xFF ; last".toList) = "RDF".toList ∧
    operandsOf (code "WRF 0x3F, 255, 0b11111111".toList) =
      ["0x3F".toList, "255".toList, "0b11111111".toList] ∧
    assembleLine "WRF 0x3F, 255, 0b11111111".toList = .word 0x403FFFFF ∧
    assembleLine "WRF 0x3F, 256, 0".toList = .refused ∧ assembleLine "WRF 0x3F, 0, 256".toList = .refused ∧
    assembleLine "CALRES 3".toList = .word 0x60000003 ∧ assembleLine "CALRES 4".toList = .refused := by decide
theorem witness_AssemblerNeverTruncates_pseudo :
    (∃ p ∈ pseudoRows, p.name = "RDDIST".toList ∧ p.access = .read) ∧
    (∃ p ∈ pseudoRows, p.name = "WRWDTH".toList ∧ p.access = .write (List.range 11) []) ∧
    mnemonicOf (code "WRWDTH 10".toList) = "WRWDTH".toList ∧
    assembleLine "WRWDTH 10".toList = .word 0x40010F0A ∧
    assembleLine "RDDIST 1".toList = .refused := by decide

theorem witness_StepRunsDecodedCommand : ∃ (s : State) (w : Word) (ws : List Word) (i : Instr),
    s.phase = .idle ∧ (∀ b rest, s.inputs ≠ .reset b :: rest) ∧ s.hostPort = w :: ws ∧ decode w = .ok i :=
  ⟨offered [0x50000000], 0x50000000, [], .calrco, rfl, notReset_nil, rfl, by decide⟩
theorem witness_StepRunsDecodedCommand_none : ∃ s : State,
    s.phase = .idle ∧ (∀ b rest, s.inputs ≠ .reset b :: rest) ∧ s.hostPort = [] :=
  ⟨State.reset, rfl, notReset_nil, rfl⟩

/-- A command in execution, at the point r, with these inputs to come. -/
def running (r : Running) (ds : List Draw) : State := { boot ds with phase := .exec r, status := 0x10 }

theorem witness_BusyBlockTakesNoWord : ∃ (s : State) (r : Running),
    s.phase = .exec r ∧ ∀ b rest, s.inputs ≠ .reset b :: rest :=
  ⟨running (.rdf 1 0x70) [], .rdf 1 0x70, rfl, notReset_nil⟩
theorem witness_BusCommandBeginsAndWaits : usesBus .calrco = true ∧ (boot []).init = true ∧ (boot []).inputs = [] := by
  decide
theorem witness_ResetValuesAndSticky :
    ({ running (.calrco .power) [] with inputs := [.reset true] } : State).inputs = [.reset true] ∧
    nextIs (step { offered [0x10000000] with status := 0x80 }) (fun t => statusSticky t.status) := by
  decide
theorem witness_ResetActsBetweenEvents :
    (resume (running (.wrf 1 0x70 5 .read) [gives 0xB5])).phase = .exec (.wrf 1 0x70 5 (.write 0xB5)) := by decide
theorem witness_ResetActsBetweenEvents_write : ∃ a v k,
    action (.wrf 1 0x70 5 (.write 0xB5)) (running (.wrf 1 0x70 5 (.write 0xB5)) []) = .wr a v k := ⟨_, _, _, rfl⟩
/-- A reset that meets the first read of CALRCO cuts no write; and a reset in IDLE. -/
theorem witness_ResetActsBetweenEvents_noWrite : (∀ a v k,
    action (.calrco .power) (running (.calrco .power) []) ≠ .wr a v k) ∧
    (resume (running (.calrco .power) [])).phase = .exec (.calrco .power) ∧ (boot []).phase = .idle :=
  ⟨fun _ _ _ h => by simp [action, rcoAction, checkPowered, readField] at h, by decide, by decide⟩
theorem witness_HostRegisterRead : 7 ≤ (7 : Byte).toNat ∧ 7 ≤ (255 : Byte).toNat := by decide
theorem witness_EndingACommand : isCalibration (.calres 0) = true ∧
    (endCommand (some (.calres 0)) .countOverflow { boot [] with calSuccess := true }).calSuccess = false := by decide
theorem witness_NotInitialised : usesBus (.rdf 1 0x70) = true ∧ State.reset.init = false := by decide
theorem witness_NotInitialised_never : usesBus (.mshift 0) = false ∧
    nextIs (exec (.mshift 0) State.reset) (fun _ => true) := by decide

/-- One premise for every command, so that each conditional clause is met: INIT unless BEGIN, and so on. -/
theorem witness_RegisterWriters :
    Instr.calrco ≠ .begin ∧ returnsResult .calrco = false ∧ isCalibration .rstdef = false ∧
    isCalres .calrco = false ∧ neverWritesSensor .rdenergy = true ∧
    (simBoot [(1, 0xB5)] []).sensor.mem.wf = true ∧ storesAt (.wrf 1 0x70 5) 2 = false ∧
    nextIs (exec (.wrf 1 0x70 5) (simBoot [(1, 0xB5)] [])) (fun _ => true) := by decide

/-- A command that is still in execution, and one that finished with another code than OK. -/
theorem witness_ResultKeptUnlessOk :
    nextIs (exec (.rdf 1 0x70) (boot [])) (fun t => t.phase != .idle) ∧
    nextIs (exec (.rdf 1 0x70) (boot [errs])) (fun t => statusCode t.status != Code.bits .ok) := by decide
theorem witness_CalSuccessFollowsCode : isCalibration .calrco = true ∧
    nextIs (exec .calrco (boot [])) (fun t => t.phase != .idle) ∧
    nextIs (exec .calrco State.reset) (fun t => t.phase == .idle && statusCode t.status == Code.bits .notInit) ∧
    nextIs (exec .calrco (boot [gives 1])) (fun t => t.phase == .idle && statusCode t.status != Code.bits .notInit) := by
  decide
theorem witness_CalRegistersKeptOnError :
    nextIs (exec (.calres 0) (boot [])) (fun t => t.phase != .idle) ∧
    nextIs (exec (.calres 0) (boot [gives 1])) (fun t =>
      statusCode t.status != Code.bits .ok && statusCode t.status != Code.bits .calFail) := by decide
theorem witness_CodesByCommand : nextIs (exec .begin State.reset) (fun t => t.phase == .idle) := by decide
theorem witness_FailedTransactionEndsCommand :
    nextIs (exec (.wrf 1 0x70 5) (boot [gives 0, errs])) (fun t =>
      t.phase == .idle && t.trace.getLast? == some (.wr 1 0x50 false) &&
        statusCode t.status == Code.bits .transportError) ∧
    nextIs (exec (.wrf 1 0x70 5) (boot [gives 0])) (fun t => t.phase != .idle && t.trace.length == 1) := by decide

/-- BEGIN at the edges: the refused 2-bit value, 4, and 3. -/
theorem witness_BeginMeaning :
    (¬ ((0 : Byte).toNat < 4 ∧ (0 : Byte).toNat ≠ Config.default.i2cRefused.toNat)) ∧
    (¬ ((4 : Byte).toNat < 4 ∧ (4 : Byte).toNat ≠ Config.default.i2cRefused.toNat)) ∧
    ((3 : Byte).toNat < 4 ∧ (3 : Byte).toNat ≠ Config.default.i2cRefused.toNat) ∧
    Config.default.xportSel = .i2c ∧ { Config.default with xportSel := .spi }.xportSel = .spi := by decide
theorem witness_BeginIdempotent : State.reset.config = (boot []).config := by decide
theorem witness_BeginIdempotent_sticky : statusSticky ({ boot [] with status := 0x80 } : State).status = true := by
  decide
theorem witness_ThreeSubaddressesPass : Config.default.xportSel = .i2c := by decide
theorem witness_SpiAddressByte : Config.default.spiReadFlag = 0x80 := by decide
theorem witness_TransportVariantInvisible : Instr.calrco ≠ .begin := by decide
theorem witness_MaskShiftIsLowestSetBit : (0x80 : Byte) ≠ 0 ∧ 6 < (maskShift 0x80).toNat := by decide
theorem witness_MshiftMeaning : ∃ m : Byte, m = 0x80 ∧ (maskShift m).toNat = 7 := ⟨0x80, by decide⟩

theorem witness_RdfMeaning : State.reset.init = false ∧ (boot [gives 0xB5]).init = true ∧
    (boot [gives 0xB5]).inputs = [.answer (gives 0xB5)] ∧
    (boot [gives 0xB5]).sensor.readAnswer 0x3F (gives 0xB5) = some 0xB5 ∧
    (boot [errs]).sensor.readAnswer 0 errs = none := by decide
theorem witness_WrfMeaning : (boot [gives 0xB5, gives 0]).init = true ∧
    (boot [gives 0xB5, gives 0]).inputs = [.answer (gives 0xB5), .answer (gives 0)] ∧
    (boot []).sensor.readAnswer 1 (gives 0xB5) = some 0xB5 ∧ (boot []).sensor.readAnswer 1 errs = none ∧
    (boot []).sensor.writeAnswer (gives 0) = true ∧ (boot []).sensor.writeAnswer errs = false := by decide

/-- SIM with 0xB5 at 0x01, initialised, and four answers to come: the premises of the statements under SIM. -/
def sim4 : State := simBoot [(1, 0xB5)] [gives 0, gives 0, gives 0, gives 0]

theorem witness_FieldPreservation : sim4.init = true ∧ sim4.sensor = .sim [(1, 0xB5)] ∧
    Memory.wf [(1, 0xB5)] = true ∧ sim4.inputs = answering [gives 0, gives 0, gives 0, gives 0] ++ [] := by decide
theorem witness_FieldRoundTrip : sim4.init = true ∧ sim4.sensor = .sim [(1, 0xB5)] ∧
    Memory.wf [(1, 0xB5)] = true ∧ sim4.inputs = answering [gives 0, gives 0, gives 0] ++ [.answer (gives 0)] ∧
    (0x70 : Byte).toNat = (2 ^ 3 - 1) <<< (maskShift 0x70).toNat ∧ (7 : Byte).toNat < 2 ^ 3 ∧
    ¬ (8 : Byte).toNat < 2 ^ 3 ∧ (0 : Byte).toNat = (2 ^ 0 - 1) <<< (maskShift 0).toNat := by decide
theorem witness_SiblingFields : (0x0F : Byte) &&& 0x70 = 0 ∧ sim4.init = true ∧ sim4.sensor = .sim [(1, 0xB5)] ∧
    sim4.inputs = answering [gives 0, gives 0, gives 0, gives 0] ++ [] := by decide

theorem witness_RdenergyMeaning : State.reset.init = false ∧
    (boot [gives 0xFF, gives 0xFF, gives 0xFF]).init = true ∧
    (boot [gives 0xFF, gives 0xFF, gives 0xFF]).inputs = answering [gives 0xFF, gives 0xFF, gives 0xFF] ++ [] ∧
    (boot []).sensor.readAnswer 0x04 (gives 0xFF) = some 0xFF ∧ (boot []).sensor.readAnswer 0x05 errs = none ∧
    (boot []).sensor.readAnswer 0x06 (gives 0xFF) = some 0xFF := by decide
theorem witness_RdenergyMeaning_errors :
    (boot [errs]).inputs = .answer errs :: [] ∧ (boot [errs]).sensor.readAnswer 0x04 errs = none ∧
    (boot [gives 1, errs]).inputs = answering [gives 1, errs] ++ [] ∧
    (boot [gives 1, gives 2, errs]).inputs = answering [gives 1, gives 2, errs] ++ [] ∧
    (boot []).sensor.readAnswer 0x06 errs = none := by decide
theorem witness_RstdefMeaning : State.reset.init = false ∧ (boot [gives 0x5A, gives 0, gives 0]).init = true ∧
    (boot [gives 0x5A, gives 0, gives 0]).inputs = answering [gives 0x5A, gives 0, gives 0] ++ [] ∧
    (boot []).sensor.readAnswer 0x3C (gives 0x5A) = some 0x5A ∧ (boot []).sensor.writeAnswer (gives 0) = true := by
  decide
theorem witness_RstdefMeaning_errors :
    (boot [errs]).inputs = .answer errs :: [] ∧ (boot []).sensor.readAnswer 0x3C errs = none ∧
    (boot [gives 1, errs]).inputs = answering [gives 1, errs] ++ [] ∧
    (boot []).sensor.writeAnswer errs = false := by decide

theorem witness_PoweredDownCalibration : isCalibration (.calres 2) = true ∧ (boot [gives 0xFF]).init = true ∧
    (boot [gives 0xFF]).inputs = .answer (gives 0xFF) :: [] ∧
    (boot []).sensor.readAnswer 0x00 (gives 0xFF) = some 0xFF ∧ (0xFF : Byte) &&& 0x01 = 1 := by decide

/-- Ten answers for CALRCO under the free oracle, of which the last two are its verdict. -/
def rcoBoot : State := boot (List.replicate 10 (gives 0xBE))

theorem witness_CalrcoFullPath : rcoBoot.init = true ∧
    rcoBoot.inputs = answering [gives 0xBE, gives 0xBE, gives 0xBE, gives 0xBE, gives 0xBE, gives 0xBE, gives 0xBE,
      gives 0xBE, gives 0xBE, gives 0xBE] ++ [] ∧
    rcoBoot.sensor.readAnswer 0x00 (gives 0xBE) = some 0xBE ∧ (0xBE : Byte) &&& 0x01 = 0 ∧
    rcoBoot.sensor.writeAnswer (gives 0xBE) = true ∧ rcoBoot.sensor.store 0x3D 0x96 = .oracle := by decide

theorem witness_CountEdges :
    (running (.calres 0 .windowStart) oneEdge.answers).phase = .exec (.calres 0 .windowStart) ∧
    oneEdge.closes = true ∧ oneEdge.count (boot []).config < 2 ^ 31 ∧
    (running (.calres 0 .windowStart) oneEdge.answers).inputs = answering oneEdge.answers ++ [] := by decide

/-- Two rounds whose clock reads show 0 and 99 ms, the last value inside the window. -/
def openRounds : List (Draw × Draw) := [(clock 0, pins 1), (clock 99, pins 0)]

theorem witness_WindowHasNoTimeout :
    (running (.calres 0 .windowClock) (loopAnswers openRounds)).phase = .exec (.calres 0 .windowClock) ∧
    (openRounds.all fun l => windowOpen l.1.millis (running (.calres 0 .windowClock) []).work.t0) = true ∧
    (running (.calres 0 .windowClock) []).work.count.toNat +
      edges (running (.calres 0 .windowClock) []).work.prev
        (openRounds.map fun l => pinLevel (boot []).config l.2) < 2 ^ 31 ∧
    (running (.calres 0 .windowClock) (loopAnswers openRounds)).inputs = answering (loopAnswers openRounds) := by
  decide

theorem witness_CountOverflow :
    ({ running (.calres 0 .windowPin) [pins 1] with work.count := countMax } : State).work.count.toInt =
      2 ^ 31 - 1 ∧
    pinLevel (boot []).config (pins 1) ≠ (running (.calres 0 .windowPin) [pins 1]).work.prev ∧
    (running (.calres 0 .windowPin) [pins 1]).inputs = .answer (pins 1) :: [] ∧
    (running (.calres 0 .windowPin) [pins 1]).phase = .exec (.calres 0 .windowPin) := by decide

theorem scan_complete : (scan oneEdge).complete Config.default .oracle = true ∧
    (scan oneEdge).complete Config.default (.sim []) = true := by decide

theorem witness_CalresSelectsFirstNearest : ∃ (s : State) (a : ScanAnswers) (p : Byte) (rest : List Input),
    s.init = true ∧ a.complete s.config s.sensor = true ∧ s.sensor.readAnswer 0x00 a.power = some p ∧
    p &&& 0x01 = 0 ∧ s.inputs = answering a.answers ++ rest :=
  ⟨boot (scan oneEdge).answers, scan oneEdge, 0, [], rfl, scan_complete.1, by decide, by decide, rfl⟩
theorem witness_CalresEvents : ∃ (s : State) (a : ScanAnswers) (rest : List Input),
    s.init = true ∧ s.sensor = .oracle ∧ a.complete s.config .oracle = true ∧ a.power.byte &&& 0x01 = 0 ∧
    s.inputs = answering a.answers ++ rest :=
  ⟨boot (scan oneEdge).answers, scan oneEdge, [], rfl, rfl, scan_complete.1, by decide, rfl⟩
theorem witness_CalresLeavesBestWritten : ∃ (s : State) (mem : Memory) (a : ScanAnswers) (rest : List Input),
    s.init = true ∧ s.sensor = .sim mem ∧ Memory.wf mem = true ∧ a.complete s.config (.sim mem) = true ∧
    Memory.read mem 0x00 &&& 0x01 = 0 ∧ s.inputs = answering a.answers ++ rest :=
  ⟨simBoot [] (scan oneEdge).answers, [], scan oneEdge, [], rfl, rfl, rfl, scan_complete.2, by decide, rfl⟩

/-- A state inside the scan that meets the invariant: setting 3 in its window, setting 1 the best so far. -/
def scanning : State :=
  { running (.calres 0 .windowPin) [pins 1] with
    work := ⟨6250, 218, 3, 5, false, 1000, 1, 50, 6200⟩ }

theorem witness_StepKeepsMachineLegal : Inv scanning ∧ nextIs (step scanning) (fun _ => true) := by
  refine ⟨⟨⟨by decide, by decide, by decide, by decide⟩, fun _ => rfl, by decide, by decide, ?_, by decide⟩, by decide⟩
  intro d p h _
  have h' : Running.calres 0 .windowPin = Running.calres d p := by injection h
  injection h' with hd hp
  subst hd hp
  exact ⟨by decide, by decide, by decide, fun _ => by decide, by decide, fun h => absurd h (by decide),
    fun _ => by decide⟩

end Sys2Proof.Tests
end

/-! ## Proofs of the family 10_state.md: the rules of one event

One rule per kind of event, for two runs side by side: a change f of the state that no port sees meets the same
answers, so two states that differ by f go on alike. With f the identity each is the rule for one run. -/

section
namespace Sys2Proof.Machine

/-- A command that performs no write stores at no address. -/
theorem storesAt_of_neverWritesSensor {op : Instr} (h : neverWritesSensor op = true) (a : Addr) :
    storesAt op a = false := by
  cases op with
  | wrf _ _ _ => cases h
  | calrco => cases h
  | calres _ => cases h
  | rstdef => cases h
  | _ => rfl

/-- What a command may do to the sensor: nothing if it performs no write, and under SIM nothing but at the addresses
it writes to, the canonical form kept (R54). -/
structure SensorFrame (op : Instr) (m m' : Sensor) : Prop where
  same : neverWritesSensor op = true → m' = m
  wf : m.mem.wf = true → m'.mem.wf = true
  read : m.mem.wf = true → ∀ a, storesAt op a = false → Memory.read m'.mem a = Memory.read m.mem a

theorem SensorFrame.refl (op : Instr) (m : Sensor) : SensorFrame op m m :=
  ⟨fun _ => rfl, id, fun _ _ _ => rfl⟩

theorem SensorFrame.trans {op : Instr} {m₁ m₂ m₃ : Sensor} (h : SensorFrame op m₁ m₂)
    (h' : SensorFrame op m₂ m₃) : SensorFrame op m₁ m₃ where
  same hn := (h'.same hn).trans (h.same hn)
  wf hw := h'.wf (h.wf hw)
  read hw a ha := (h'.read (h.wf hw) a ha).trans (h.read hw a ha)

/-- A byte stored at an address the command writes to. -/
theorem SensorFrame.store {op : Instr} {a : Addr} (ha : storesAt op a = true) (m : Sensor) (b : Byte) :
    SensorFrame op m (m.store a b) where
  same hn := by simp [storesAt_of_neverWritesSensor hn] at ha
  wf hw := Sensor.store_wf a b hw
  read hw a' ha' := by
    have hne : a' ≠ a := by rintro rfl; simp [ha] at ha'
    cases m with
    | oracle => rfl
    | sim mem => exact (Memory.read_write_from a b a' hw).trans (if_neg hne)

/-- The state u after an event of the command op in the state s, before the command goes on: the event differs from
nothing but the trace and, where it is a write, the sensor. -/
def Observed (op : Instr) (s u : State) : Prop :=
  ∃ m tr, u = { s with sensor := m, trace := tr } ∧ SensorFrame op s.sensor m

theorem observed_record (op : Instr) (e : Event) (s : State) : Observed op s (record e s) :=
  ⟨s.sensor, s.trace ++ [e], rfl, .refl op _⟩

theorem observed_write {op : Instr} {a : Addr} (ha : storesAt op a = true) (b : Byte) (s : State) :
    Observed op s (record (.wr a b true) (deliver a b true s)) :=
  ⟨s.sensor.store a b, s.trace ++ [.wr a b true], rfl, .store ha _ b⟩

theorem observed_accept (op : Instr) (s : State) : Observed op s (accept s) := ⟨s.sensor, [], rfl, .refl op _⟩

/-! ## The rules -/

/-- A change of state that no port of the block sees and no event undoes. -/
structure Unseen (f : State → State) : Prop where
  sensor : ∀ s, (f s).sensor = s.sensor
  pin : ∀ s d, pinLevel (f s).config d = pinLevel s.config d
  record : ∀ e s, record e (f s) = f (record e s)
  deliver : ∀ a b ok s, deliver a b ok (f s) = f (deliver a b ok s)

theorem unseen_id : Unseen id := ⟨fun _ => rfl, fun _ _ => rfl, fun _ _ => rfl, fun _ _ _ _ => rfl⟩

section rules
variable {op : Instr} {s : State} {d : Draw} {f : State → State} {R : State → State → Prop} (hf : Unseen f)
include hf

theorem rd_related {a : Addr} {k k' : Byte → State → State}
    (err : ∀ u, Observed op s u →
      R (endCommand (some op) .transportError u) (endCommand (some op) .transportError (f u)))
    (ok : ∀ b u, Observed op s u → R (k b u) (k' b (f u))) :
    R ((Action.rd a k).perform op d s) ((Action.rd a k').perform op d (f s)) := by
  cases h : s.sensor.readAnswer a d with
  | none =>
    rw [perform_rd_err _ _ _ h, perform_rd_err _ _ _ ((hf.sensor s).symm ▸ h), hf.record]
    exact err _ (observed_record op _ s)
  | some b =>
    rw [perform_rd_ok _ _ _ h, perform_rd_ok _ _ _ ((hf.sensor s).symm ▸ h), hf.record]
    exact ok b _ (observed_record op _ s)

theorem wr_related {a : Addr} {b : Byte} {k k' : State → State} (ha : storesAt op a = true)
    (err : ∀ u, Observed op s u →
      R (endCommand (some op) .transportError u) (endCommand (some op) .transportError (f u)))
    (ok : ∀ u, Observed op s u → R (k u) (k' (f u))) :
    R ((Action.wr a b k).perform op d s) ((Action.wr a b k').perform op d (f s)) := by
  cases h : s.sensor.writeAnswer d with
  | false =>
    rw [perform_wr_err _ _ _ h, perform_wr_err _ _ _ ((hf.sensor s).symm ▸ h), hf.record]
    exact err _ (observed_record op _ s)
  | true =>
    rw [perform_wr_ok _ _ _ h, perform_wr_ok _ _ _ ((hf.sensor s).symm ▸ h), hf.deliver, hf.record]
    exact ok _ (observed_write ha b s)

theorem clk_related {k k' : Word → State → State} (ok : ∀ t u, Observed op s u → R (k t u) (k' t (f u))) :
    R ((Action.clk k).perform op d s) ((Action.clk k').perform op d (f s)) := by
  rw [perform_clk, perform_clk, hf.record]
  exact ok _ _ (observed_record op _ s)

theorem pin_related {k k' : Bool → State → State} (ok : ∀ l u, Observed op s u → R (k l u) (k' l (f u))) :
    R ((Action.pin k).perform op d s) ((Action.pin k').perform op d (f s)) := by
  rw [perform_pin, perform_pin, hf.pin, hf.record]
  exact ok _ _ (observed_record op _ s)

theorem dly_related {us : Nat} {k k' : State → State} (ok : ∀ u, Observed op s u → R (k u) (k' (f u))) :
    R ((Action.dly us k).perform op d s) ((Action.dly us k').perform op d (f s)) := by
  rw [perform_dly, perform_dly, hf.record]
  exact ok _ (observed_record op _ s)

/-- A writeField at either of its two transactions (R102). -/
theorem writeField_related {g : RegField} {v : Byte} {p : Rmw} {at_ : Rmw → Running} {k k' : State → State}
    (ha : storesAt op g.addr = true)
    (err : ∀ u, Observed op s u →
      R (endCommand (some op) .transportError u) (endCommand (some op) .transportError (f u)))
    (more : ∀ b u, Observed op s u → R (goOn (at_ (.write b)) u) (goOn (at_ (.write b)) (f u)))
    (ok : ∀ u, Observed op s u → R (k u) (k' (f u))) :
    R ((writeField g v p at_ k).perform op d s) ((writeField g v p at_ k').perform op d (f s)) := by
  cases p with
  | read => exact rd_related hf err more
  | write b => exact wr_related hf ha err ok

end rules

/-! ## The same rules for one run -/

section rules
variable {op : Instr} {s : State} {d : Draw} {Q : State → Prop}

theorem rd_ensures {a : Addr} {k : Byte → State → State}
    (err : ∀ u, Observed op s u → Q (endCommand (some op) .transportError u))
    (ok : ∀ b u, Observed op s u → Q (k b u)) : Q ((Action.rd a k).perform op d s) :=
  rd_related (R := fun t _ => Q t) (k' := k) unseen_id err ok

theorem clk_ensures {k : Word → State → State} (ok : ∀ t u, Observed op s u → Q (k t u)) :
    Q ((Action.clk k).perform op d s) :=
  clk_related (R := fun t _ => Q t) (k' := k) unseen_id ok

theorem pin_ensures {k : Bool → State → State} (ok : ∀ l u, Observed op s u → Q (k l u)) :
    Q ((Action.pin k).perform op d s) :=
  pin_related (R := fun t _ => Q t) (k' := k) unseen_id ok

theorem dly_ensures {us : Nat} {k : State → State} (ok : ∀ u, Observed op s u → Q (k u)) :
    Q ((Action.dly us k).perform op d s) :=
  dly_related (R := fun t _ => Q t) (k' := k) unseen_id ok

theorem writeField_ensures {g : RegField} {v : Byte} {p : Rmw} {at_ : Rmw → Running} {k : State → State}
    (ha : storesAt op g.addr = true) (err : ∀ u, Observed op s u → Q (endCommand (some op) .transportError u))
    (more : ∀ b u, Observed op s u → Q (goOn (at_ (.write b)) u)) (ok : ∀ u, Observed op s u → Q (k u)) :
    Q ((writeField g v p at_ k).perform op d s) :=
  writeField_related (R := fun t _ => Q t) (k' := k) unseen_id ha err more ok

/-- `checkPowered()` (R120). -/
theorem checkPowered_ensures {k : State → State}
    (err : ∀ u, Observed op s u → Q (endCommand (some op) .transportError u))
    (off : ∀ u, Observed op s u → Q (endCommand (some op) .poweredDown u))
    (ok : ∀ u, Observed op s u → Q (k u)) : Q ((checkPowered op k).perform op d s) :=
  rd_ensures err fun b u hu => by
    dsimp only
    split
    · exact off u hu
    · exact ok u hu

end rules

end Sys2Proof.Machine
end

/-! ## What a command does to the registers -/

section
namespace Sys2Proof.Machine

/-- CAL_SUCCESS after the command op has ended with the code c (R27, R172, R173). -/
def calSuccessAfter (op : Instr) (c : Code) (old : Bool) : Bool :=
  if isCalibration op && c.failsCalibration then false else if isCalibration op && c == .ok then true else old

/-- What the command op leaves as it is (R23, R28, R33), whether it has ended or not. -/
structure CommandFrame (op : Instr) (s t : State) : Prop where
  config : t.config = s.config
  hostPort : t.hostPort = s.hostPort
  init : op ≠ .begin → t.init = s.init
  work : isCalres op = false → t.work = s.work
  sensor : SensorFrame op s.sensor t.sensor

/-- The three registers of a CalibrationResult are as they were (R26). -/
def CalRegistersKept (s t : State) : Prop :=
  t.calSetting = s.calSetting ∧ t.calCount = s.calCount ∧ t.calDiff = s.calDiff

/-- The command op is still in execution: it has written no register but BUSY. -/
structure StillRunning (op : Instr) (s t : State) : Prop where
  phase : ∃ r, t.phase = .exec r ∧ r.op = op
  status : t.status = s.status ∨ t.status = startStatus s.status
  result : t.result = s.result
  calSuccess : t.calSuccess = s.calSuccess
  calRegisters : CalRegistersKept s t

/-- The command op has ended with the code c (R25, R26, R27, R171, R172). -/
structure EndedWith (op : Instr) (c : Code) (s t : State) : Prop where
  phase : t.phase = .idle
  code : mayEndWith op c = true
  status : t.status = endStatus c s.status
  result : returnsResult op = true ∧ c = .ok ∨ t.result = s.result
  calSuccess : t.calSuccess = calSuccessAfter op c s.calSuccess
  calRegisters : isCalres op = true ∧ (c = .ok ∨ c = .calFail) ∨ CalRegistersKept s t

/-- What the command op has done between s and t. -/
def CommandEffect (op : Instr) (s t : State) : Prop :=
  CommandFrame op s t ∧ (StillRunning op s t ∨ ∃ c, EndedWith op c s t)

/-! ## Putting parts of a command together -/

theorem CommandFrame.trans {op : Instr} {s t u : State} (h : CommandFrame op s t) (h' : CommandFrame op t u) :
    CommandFrame op s u where
  config := h'.config.trans h.config
  hostPort := h'.hostPort.trans h.hostPort
  init hb := (h'.init hb).trans (h.init hb)
  work hc := (h'.work hc).trans (h.work hc)
  sensor := h.sensor.trans h'.sensor

theorem CalRegistersKept.trans {s t u : State} (h : CalRegistersKept s t) (h' : CalRegistersKept t u) :
    CalRegistersKept s u := by
  obtain ⟨hs, hc, hd⟩ := h
  obtain ⟨hs', hc', hd'⟩ := h'
  exact ⟨hs'.trans hs, hc'.trans hc, hd'.trans hd⟩

@[simp] theorem startStatus_startStatus (st : Byte) : startStatus (startStatus st) = startStatus st := by
  revert st; decide

/-- What ends a command writes BUSY whatever it was. -/
theorem StillRunning.endStatus_eq {op : Instr} {s t : State} (h : StillRunning op s t) (c : Code) :
    endStatus c t.status = endStatus c s.status := by
  obtain hs | hs := h.status <;> rw [hs]
  exact endStatus_startStatus c _

theorem StillRunning.trans {op : Instr} {s t u : State} (h : StillRunning op s t) (h' : StillRunning op t u) :
    StillRunning op s u where
  phase := h'.phase
  status := by
    obtain hs | hs := h.status <;> obtain hs' | hs' := h'.status <;> simp [hs, hs']
  result := h'.result.trans h.result
  calSuccess := h'.calSuccess.trans h.calSuccess
  calRegisters := h.calRegisters.trans h'.calRegisters

theorem StillRunning.trans_ended {op : Instr} {c : Code} {s t u : State} (h : StillRunning op s t)
    (h' : EndedWith op c t u) : EndedWith op c s u where
  phase := h'.phase
  code := h'.code
  status := h'.status.trans (h.endStatus_eq c)
  result := h'.result.imp_right (·.trans h.result)
  calSuccess := h'.calSuccess.trans (by rw [h.calSuccess])
  calRegisters := h'.calRegisters.imp_right h.calRegisters.trans

/-- While a command is in execution its effect so far is that of a running command. -/
theorem CommandEffect.running {op : Instr} {s t : State} {r : Running} (h : CommandEffect op s t)
    (hp : t.phase = .exec r) : r.op = op ∧ StillRunning op s t := by
  obtain ⟨-, hr | ⟨c, he⟩⟩ := h
  · obtain ⟨r', hp', hop⟩ := hr.phase
    cases hp.symm.trans hp'
    exact ⟨hop, hr⟩
  · cases hp.symm.trans he.phase

/-- An event more of a command in execution. -/
theorem CommandEffect.trans {op : Instr} {s t u : State} (h : CommandEffect op s t) (hr : StillRunning op s t)
    (h' : CommandEffect op t u) : CommandEffect op s u :=
  ⟨h.1.trans h'.1, h'.2.imp hr.trans fun ⟨c, he⟩ => ⟨c, hr.trans_ended he⟩⟩

theorem CommandEffect.inputs {op : Instr} {s t : State} (h : CommandEffect op s t) (xs : List Input) :
    CommandEffect op s { t with inputs := xs } := by
  obtain ⟨hf, hr | ⟨c, he⟩⟩ := h
  · exact ⟨⟨hf.config, hf.hostPort, hf.init, hf.work, hf.sensor⟩,
      .inl ⟨hr.phase, hr.status, hr.result, hr.calSuccess, hr.calRegisters⟩⟩
  · exact ⟨⟨hf.config, hf.hostPort, hf.init, hf.work, hf.sensor⟩,
      .inr ⟨c, he.phase, he.code, he.status, he.result, he.calSuccess, he.calRegisters⟩⟩

/-! ## How the pseudocode goes on after an event -/

theorem calSuccessAfter_of_not_ok {op : Instr} {c : Code} (h : c ≠ .ok ∨ isCalibration op = false) (b : Bool) :
    (if (some op).any isCalibration && c.failsCalibration then false else b) = calSuccessAfter op c b := by
  rcases h with h | h <;> simp [calSuccessAfter, h]

/-- A command that returns a value in RESULT is no calibration (R25). -/
theorem not_calibration_of_returnsResult {op : Instr} (h : returnsResult op = true) : isCalibration op = false := by
  cases op with
  | calrco => cases h
  | calres _ => cases h
  | _ => rfl

section
variable {op : Instr} {s u : State} (hu : Observed op s u)
include hu

/-- The command goes on; only CALRES may have written the working state. -/
theorem effect_goOn_work {r : Running} {w : CalWork} (hr : r.op = op) (hw : isCalres op = false → w = s.work) :
    CommandEffect op s (goOn r { u with work := w }) := by
  obtain ⟨m, tr, rfl, hm⟩ := hu
  exact ⟨⟨rfl, rfl, fun _ => rfl, hw, hm⟩, .inl ⟨⟨r, rfl, hr⟩, .inl rfl, rfl, rfl, rfl, rfl, rfl⟩⟩

theorem effect_goOn {r : Running} (hr : r.op = op) : CommandEffect op s (goOn r u) := by
  obtain ⟨m, tr, rfl, hm⟩ := hu
  exact effect_goOn_work ⟨m, tr, rfl, hm⟩ hr fun _ => rfl

/-- The command ends with no value: on an error, or with OK where it is no calibration. -/
theorem effect_end {c : Code} (hc : mayEndWith op c = true) (h : c ≠ .ok ∨ isCalibration op = false) :
    CommandEffect op s (endCommand (some op) c u) := by
  obtain ⟨m, tr, rfl, hm⟩ := hu
  exact ⟨⟨rfl, rfl, fun _ => rfl, fun _ => rfl, hm⟩,
    .inr ⟨c, rfl, hc, rfl, .inr rfl, calSuccessAfter_of_not_ok h _, .inr ⟨rfl, rfl, rfl⟩⟩⟩

/-- The command ends with OK and a value in RESULT (R25). -/
theorem effect_return (v : Word) (hc : mayEndWith op .ok = true) (hr : returnsResult op = true) :
    CommandEffect op s (endCommand (some op) .ok { u with result := v }) := by
  obtain ⟨m, tr, rfl, hm⟩ := hu
  exact ⟨⟨rfl, rfl, fun _ => rfl, fun _ => rfl, hm⟩,
    .inr ⟨.ok, rfl, hc, rfl, .inl ⟨hr, rfl⟩,
      calSuccessAfter_of_not_ok (.inr (not_calibration_of_returnsResult hr)) _, .inr ⟨rfl, rfl, rfl⟩⟩⟩

end

/-- The verdict of CALRCO (R121). -/
theorem effect_rcoVerdict {s u : State} (hu : Observed .calrco s u) (x y : Byte) :
    CommandEffect .calrco s (rcoVerdict x y u) := by
  by_cases h : x = 0 ∧ y = 0
  · obtain ⟨rfl, rfl⟩ := h
    obtain ⟨m, tr, rfl, hm⟩ := hu
    rw [rcoVerdict_ok]
    exact ⟨⟨rfl, rfl, fun _ => rfl, fun _ => rfl, hm⟩,
      .inr ⟨.ok, rfl, rfl, rfl, .inr rfl, rfl, .inr ⟨rfl, rfl, rfl⟩⟩⟩
  · rw [rcoVerdict_fail h]
    exact effect_end hu rfl (.inl nofun)

/-- A sample of a window (R123, R128). -/
theorem effect_windowSample {q : BitVec 2} {s u : State} (hu : Observed (.calres q) s u) (l : Bool) :
    CommandEffect (.calres q) s (windowSample q l u) := by
  by_cases hl : l = u.work.prev
  · rw [windowSample_same hl]
    exact effect_goOn hu rfl
  · by_cases hc : u.work.count = countMax
    · rw [windowSample_overflow hl hc]
      exact effect_end hu rfl (.inl nofun)
    · rw [windowSample_edge hl hc]
      exact effect_goOn_work hu rfl nofun

/-- The end of a round of the scan (R129, R130). -/
theorem effect_scanNext {q : BitVec 2} {s u : State} (hu : Observed (.calres q) s u) :
    CommandEffect (.calres q) s (scanNext q u) := by
  by_cases hi : u.work.i.toNat + 1 < nTune
  · rw [scanNext_goes_on hi]
    exact effect_goOn_work hu rfl nofun
  · rw [scanNext_ends hi]
    exact effect_goOn_work hu rfl nofun

/-- The verdict of CALRES (R127, R130). -/
theorem effect_scanVerdict {q : BitVec 2} {s u : State} (hu : Observed (.calres q) s u) :
    CommandEffect (.calres q) s (scanVerdict q u) := by
  by_cases h : u.work.bestDiff.toNat < u.work.threshold.toNat
  · rw [scanVerdict_ok h]
    obtain ⟨m, tr, rfl, hm⟩ := hu
    exact ⟨⟨rfl, rfl, fun _ => rfl, nofun, hm⟩,
      .inr ⟨.ok, rfl, rfl, rfl, .inr rfl, rfl, .inl ⟨rfl, .inl rfl⟩⟩⟩
  · rw [scanVerdict_fail h]
    obtain ⟨m, tr, rfl, hm⟩ := hu
    exact ⟨⟨rfl, rfl, fun _ => rfl, nofun, hm⟩,
      .inr ⟨.calFail, rfl, rfl, rfl, .inr rfl, rfl, .inl ⟨rfl, .inr rfl⟩⟩⟩

/-! ## Every event of every command -/

section events
variable {op : Instr} {s : State} {d : Draw}

/-- An answer Err ends a command that may end with TRANSPORT_ERROR (R176). -/
theorem effect_rd {a : Addr} {k : Byte → State → State} (ht : mayEndWith op .transportError = true)
    (ok : ∀ b u, Observed op s u → CommandEffect op s (k b u)) :
    CommandEffect op s ((Action.rd a k).perform op d s) :=
  rd_ensures (fun _ hu => effect_end hu ht (.inl nofun)) ok

theorem effect_writeField {g : RegField} {v : Byte} {p : Rmw} {at_ : Rmw → Running} {k : State → State}
    (ht : mayEndWith op .transportError = true) (ha : storesAt op g.addr = true)
    (hr : ∀ b, (at_ (.write b)).op = op) (ok : ∀ u, Observed op s u → CommandEffect op s (k u)) :
    CommandEffect op s ((writeField g v p at_ k).perform op d s) :=
  writeField_ensures ha (fun _ hu => effect_end hu ht (.inl nofun)) (fun b _ hu => effect_goOn hu (hr b)) ok

theorem effect_checkPowered {k : State → State} (ht : mayEndWith op .transportError = true)
    (hp : mayEndWith op .poweredDown = true) (ok : ∀ u, Observed op s u → CommandEffect op s (k u)) :
    CommandEffect op s ((checkPowered op k).perform op d s) :=
  checkPowered_ensures (fun _ hu => effect_end hu ht (.inl nofun)) (fun _ hu => effect_end hu hp (.inl nofun)) ok

theorem rcoAction_effect (p : RcoPoint) : CommandEffect .calrco s ((rcoAction p).perform .calrco d s) := by
  unfold rcoAction
  cases p with
  | power => exact effect_checkPowered rfl rfl fun u hu => effect_goOn hu rfl
  | trigger p => exact effect_writeField rfl rfl (fun _ => rfl) fun u hu => effect_goOn hu rfl
  | showSrco p => exact effect_writeField rfl rfl (fun _ => rfl) fun u hu => effect_goOn hu rfl
  | settle => exact dly_ensures fun u hu => effect_goOn hu rfl
  | hideSrco p => exact effect_writeField rfl rfl (fun _ => rfl) fun u hu => effect_goOn hu rfl
  | trco => exact effect_rd rfl fun b u hu => effect_goOn hu rfl
  | srco x => exact effect_rd rfl fun b u hu => effect_rcoVerdict hu _ _

theorem resAction_effect (q : BitVec 2) (p : ResPoint) :
    CommandEffect (.calres q) s ((resAction q s p).perform (.calres q) d s) := by
  unfold resAction
  cases p with
  | power => exact effect_checkPowered rfl rfl fun u hu => effect_goOn hu rfl
  | div p => exact effect_writeField rfl rfl (fun _ => rfl) fun u hu => effect_goOn_work hu rfl nofun
  | tune p => exact effect_writeField rfl rfl (fun _ => rfl) fun u hu => effect_goOn hu rfl
  | settleB => exact dly_ensures fun u hu => effect_goOn hu rfl
  | showLco p => exact effect_writeField rfl rfl (fun _ => rfl) fun u hu => effect_goOn hu rfl
  | settleD => exact dly_ensures fun u hu => effect_goOn hu rfl
  | windowStart => exact clk_ensures fun t u hu => effect_goOn_work hu rfl nofun
  | windowRef => exact pin_ensures fun l u hu => effect_goOn_work hu rfl nofun
  | windowClock =>
    refine clk_ensures fun t u hu => ?_
    split
    · exact effect_goOn hu rfl
    · exact effect_goOn hu rfl
  | windowPin => exact pin_ensures fun l u hu => effect_windowSample hu l
  | hideLco p => exact effect_writeField rfl rfl (fun _ => rfl) fun u hu => effect_scanNext hu
  | best p => exact effect_writeField rfl rfl (fun _ => rfl) fun u hu => effect_scanVerdict hu

theorem presetAction_effect (p : PresetPoint) :
    CommandEffect .rstdef s ((presetAction p).perform .rstdef d s) := by
  unfold presetAction
  cases p with
  | trigger p => exact effect_writeField rfl rfl (fun _ => rfl) fun u hu => effect_goOn hu rfl
  | settle => exact dly_ensures fun u hu => effect_end hu rfl (.inr rfl)

theorem energyAction_effect (p : EnergyPoint) :
    CommandEffect .rdenergy s ((energyAction p).perform .rdenergy d s) := by
  unfold energyAction
  cases p with
  | lsb => exact effect_rd rfl fun b u hu => effect_goOn hu rfl
  | msb lo => exact effect_rd rfl fun b u hu => effect_goOn hu rfl
  | mmsb lo mi => exact effect_rd rfl fun b u hu => effect_return hu _ rfl rfl

end events

/-- What one event of a command in execution does to the registers. -/
theorem perform_effect (r : Running) (d : Draw) (s : State) : CommandEffect r.op s (perform r d s) := by
  cases r with
  | rdf a m => exact effect_rd rfl fun b u hu => effect_return hu _ rfl rfl
  | wrf a m v p =>
    exact effect_writeField rfl (by simp [Running.op, storesAt]) (fun _ => rfl) fun u hu => effect_end hu rfl (.inr rfl)
  | calrco p => exact rcoAction_effect p
  | calres q p => exact resAction_effect q p
  | rstdef p => exact presetAction_effect p
  | rdenergy p => exact energyAction_effect p

/-- A command that runs on, however far, adds to its effect. -/
theorem run_effect {op : Instr} {s : State} (xs : List Input) {t : State} (h : CommandEffect op s t) :
    CommandEffect op s (run xs t) := by
  refine run_keeps (P := CommandEffect op s) (fun t xs h => h.inputs xs) ?_ xs t h
  intro r d t hp h
  obtain ⟨rfl, hr⟩ := h.running hp
  exact h.trans hr (perform_effect r d t)

/-- Every command that uses the bus may be refused for want of INIT (R173). -/
theorem mayEndWith_notInit {i : Instr} (h : usesBus i = true) : mayEndWith i .notInit = true := by
  cases i with
  | begin => cases h
  | mshift m => cases h
  | _ => rfl

/-- What executing a command does to the registers, however far it has run (R23, R25 to R29, R33, R171 to R173). -/
theorem exec_effect {i : Instr} {s t : State} (h : exec i s = .next t) : CommandEffect i s t := by
  have ha := observed_accept i s
  obtain ⟨-, -, r, hr, -, rfl⟩ | ⟨hi, -, rfl⟩ | ⟨rfl, -, rfl⟩ | ⟨rfl, -, rfl⟩ | ⟨m, rfl, rfl⟩ := exec_cases h
  · exact run_effect _ ⟨⟨rfl, rfl, fun _ => rfl, fun _ => rfl, .refl _ _⟩,
      .inl ⟨⟨r, rfl, hr⟩, .inr rfl, rfl, rfl, rfl, rfl, rfl⟩⟩
  · exact effect_end ha (mayEndWith_notInit hi) (.inl nofun)
  · exact ⟨⟨rfl, rfl, fun hb => absurd rfl hb, fun _ => rfl, .refl _ _⟩,
      .inr ⟨.ok, rfl, rfl, rfl, .inr rfl, rfl, .inr ⟨rfl, rfl, rfl⟩⟩⟩
  · exact ⟨⟨rfl, rfl, fun hb => absurd rfl hb, fun _ => rfl, .refl _ _⟩,
      .inr ⟨.configError, rfl, rfl, rfl, .inr rfl, rfl, .inr ⟨rfl, rfl, rfl⟩⟩⟩
  · exact effect_return ha _ rfl rfl

end Sys2Proof.Machine
end

/-! ## The writers of the registers -/

section
namespace Sys2Proof.Machine

/-- A command in execution is not in IDLE, and one in IDLE has ended. -/
theorem CommandEffect.of_busy {op : Instr} {s t : State} (h : CommandEffect op s t) (hp : t.phase ≠ .idle) :
    StillRunning op s t :=
  h.2.resolve_right fun ⟨_, he⟩ => hp he.phase

theorem CommandEffect.of_idle {op : Instr} {s t : State} (h : CommandEffect op s t) (hp : t.phase = .idle) :
    ∃ c, EndedWith op c s t :=
  h.2.resolve_left fun hr => by
    obtain ⟨r, hp', -⟩ := hr.phase
    cases hp.symm.trans hp'

/-- STATUS.CODE tells with which code a command has ended. -/
theorem EndedWith.code_iff {op : Instr} {c : Code} {s t : State} (h : EndedWith op c s t) (c' : Code) :
    statusCode t.status = c'.bits ↔ c = c' := by
  rw [h.status, endStatus_code]
  exact ⟨code_bits_injective c c', fun hc => hc ▸ rfl⟩

theorem CommandEffect.result_kept {op : Instr} {s t : State} (h : CommandEffect op s t)
    (hr : returnsResult op = false) : t.result = s.result := by
  obtain hrun | ⟨c, he⟩ := h.2
  · exact hrun.result
  · exact he.result.resolve_left fun ⟨hr', _⟩ => by simp [hr] at hr'

theorem CommandEffect.calSuccess_kept {op : Instr} {s t : State} (h : CommandEffect op s t)
    (hc : isCalibration op = false) : t.calSuccess = s.calSuccess := by
  obtain hrun | ⟨c, he⟩ := h.2
  · exact hrun.calSuccess
  · simpa [calSuccessAfter, hc] using he.calSuccess

theorem CommandEffect.calRegisters_kept {op : Instr} {s t : State} (h : CommandEffect op s t)
    (hc : isCalres op = false) : CalRegistersKept s t := by
  obtain hrun | ⟨c, he⟩ := h.2
  · exact hrun.calRegisters
  · exact he.calRegisters.resolve_left fun ⟨hc', _⟩ => by simp [hc] at hc'

/-- A calibration that has ended has succeeded, was refused for want of INIT, or has failed (R171, R172). -/
theorem calibration_code {op : Instr} {c : Code} (hop : isCalibration op = true) (hm : mayEndWith op c = true) :
    c = .ok ∨ c = .notInit ∨ c.failsCalibration = true := by
  cases op with
  | calrco => revert hm; cases c <;> decide
  | calres d => cases c <;> simp [mayEndWith, Code.failsCalibration] at hm ⊢
  | _ => cases hop

/-- Of the codes of a calibration only OK sets CAL_SUCCESS, and only NOT_INIT keeps it (R27, R172, R173). -/
theorem calSuccessAfter_iff_ok {op : Instr} {c : Code} (hop : isCalibration op = true) (hm : mayEndWith op c = true)
    (hn : c ≠ .notInit) (b : Bool) : calSuccessAfter op c b = true ↔ c = .ok := by
  obtain rfl | rfl | hf := calibration_code hop hm
  · simp [calSuccessAfter, hop, Code.failsCalibration]
  · exact absurd rfl hn
  · have hok : c ≠ .ok := by rintro rfl; cases hf
    simp [calSuccessAfter, hop, hf, hok]

/-- Settles O22: the effect of a command, clause by clause. -/
theorem registerWriters : Obligations.RegisterWriters := by
  intro i s t h
  have he := exec_effect h
  obtain ⟨hconfig, hport, hinit, hwork, hsame, -, hread⟩ := he.1
  refine ⟨hconfig, hport, hinit, he.result_kept, he.calSuccess_kept, fun hc => ?_, hsame, hread⟩
  obtain ⟨hs, hcount, hd⟩ := he.calRegisters_kept hc
  exact ⟨hs, hcount, hd, hwork hc⟩

/-- Settles O23: RESULT is written by a command that ends with OK, and by no other. -/
theorem resultKeptUnlessOk : Obligations.ResultKeptUnlessOk := by
  intro i s t h hkeep
  obtain hrun | ⟨c, he⟩ := (exec_effect h).2
  · exact hrun.result
  · refine he.result.resolve_left fun ⟨_, hok⟩ => ?_
    exact hkeep.elim (absurd he.phase) (absurd ((he.code_iff .ok).2 hok))

/-- Settles O24: what the code a calibration ended with makes of CAL_SUCCESS. -/
theorem calSuccessFollowsCode : Obligations.CalSuccessFollowsCode := by
  intro i s t hi h
  have heff := exec_effect h
  refine ⟨fun hp => (heff.of_busy hp).calSuccess, fun hp hn => ?_, fun hp hn => ?_⟩
  · obtain ⟨c, he⟩ := heff.of_idle hp
    obtain rfl := (he.code_iff .notInit).1 hn
    simpa [calSuccessAfter, Code.failsCalibration] using he.calSuccess
  · obtain ⟨c, he⟩ := heff.of_idle hp
    rw [he.code_iff, he.calSuccess]
    exact calSuccessAfter_iff_ok hi he.code (fun hc => hn ((he.code_iff .notInit).2 hc)) _

/-- Settles O25: a CALRES that wrote the three registers has ended with OK or CAL_FAIL. -/
theorem calRegistersKeptOnError : Obligations.CalRegistersKeptOnError := by
  intro d s t h hkeep
  obtain hrun | ⟨c, he⟩ := (exec_effect h).2
  · exact hrun.calRegisters
  · refine he.calRegisters.resolve_left fun ⟨_, hc⟩ => ?_
    obtain hp | ⟨hok, hfail⟩ := hkeep
    · exact hp he.phase
    · exact hc.elim (hok ∘ (he.code_iff .ok).2) (hfail ∘ (he.code_iff .calFail).2)

end Sys2Proof.Machine
end

/-! ## The host port has no influence on a command in execution -/

section
namespace Sys2Proof.Machine

/-- The same state with other words offered. -/
def offering (ws : List Word) (s : State) : State := { s with hostPort := ws }

theorem unseen_offering (ws : List Word) : Unseen (offering ws) :=
  ⟨fun _ => rfl, fun _ _ => rfl, fun _ _ => rfl, fun _ _ _ _ => rfl⟩

section continuations
variable (q : BitVec 2) (ws : List Word) (s : State)

theorem rcoVerdict_offering (x y : Byte) : rcoVerdict x y (offering ws s) = offering ws (rcoVerdict x y s) := by
  unfold rcoVerdict
  rw [apply_ite (offering ws)]
  rfl

theorem windowSample_offering (l : Bool) : windowSample q l (offering ws s) = offering ws (windowSample q l s) := by
  unfold windowSample
  rw [apply_ite (offering ws), apply_ite (offering ws)]
  rfl

theorem scanNext_offering : scanNext q (offering ws s) = offering ws (scanNext q s) := by
  unfold scanNext
  rw [apply_ite (offering ws)]
  rfl

theorem scanVerdict_offering : scanVerdict q (offering ws s) = offering ws (scanVerdict q s) := by
  unfold scanVerdict
  rw [apply_ite (offering ws)]
  rfl

end continuations

section events
variable {op : Instr} {d : Draw} {ws : List Word} {s : State}

theorem rd_offering {a : Addr} {k : Byte → State → State}
    (hk : ∀ b u, k b (offering ws u) = offering ws (k b u)) :
    (Action.rd a k).perform op d (offering ws s) = offering ws ((Action.rd a k).perform op d s) :=
  rd_related (R := fun t t' => t' = offering ws t) (unseen_offering ws) (fun _ _ => rfl) fun b u _ => hk b u

theorem writeField_offering {g : RegField} {v : Byte} {p : Rmw} {at_ : Rmw → Running} {k : State → State}
    (ha : storesAt op g.addr = true) (hk : ∀ u, k (offering ws u) = offering ws (k u)) :
    (writeField g v p at_ k).perform op d (offering ws s) =
      offering ws ((writeField g v p at_ k).perform op d s) :=
  writeField_related (R := fun t t' => t' = offering ws t) (unseen_offering ws) ha (fun _ _ => rfl)
    (fun _ _ _ => rfl) fun u _ => hk u

theorem checkPowered_offering {k : State → State} (hk : ∀ u, k (offering ws u) = offering ws (k u)) :
    (checkPowered op k).perform op d (offering ws s) = offering ws ((checkPowered op k).perform op d s) :=
  rd_offering fun b u => by
    simp only [hk, apply_ite (offering ws)]
    rfl

theorem rcoAction_offering (p : RcoPoint) :
    (rcoAction p).perform .calrco d (offering ws s) = offering ws ((rcoAction p).perform .calrco d s) := by
  unfold rcoAction
  cases p with
  | power => exact checkPowered_offering fun _ => rfl
  | trigger p => exact writeField_offering rfl fun _ => rfl
  | showSrco p => exact writeField_offering rfl fun _ => rfl
  | settle => rfl
  | hideSrco p => exact writeField_offering rfl fun _ => rfl
  | trco => exact rd_offering fun _ _ => rfl
  | srco x => exact rd_offering fun b u => rcoVerdict_offering ws u x _

theorem resAction_offering (q : BitVec 2) (p : ResPoint) :
    (resAction q (offering ws s) p).perform (.calres q) d (offering ws s) =
      offering ws ((resAction q s p).perform (.calres q) d s) := by
  unfold resAction
  cases p with
  | power => exact checkPowered_offering fun _ => rfl
  | div p => exact writeField_offering rfl fun _ => rfl
  | tune p => exact writeField_offering rfl fun _ => rfl
  | settleB => rfl
  | showLco p => exact writeField_offering rfl fun _ => rfl
  | settleD => rfl
  | windowStart => rfl
  | windowRef => rfl
  | windowClock =>
    exact clk_related (R := fun t t' => t' = offering ws t) (unseen_offering ws) fun t u _ => by
      rw [apply_ite (offering ws)]
      rfl
  | windowPin =>
    exact pin_related (R := fun t t' => t' = offering ws t) (unseen_offering ws) fun l u _ =>
      windowSample_offering q ws u l
  | hideLco p => exact writeField_offering rfl (scanNext_offering q ws)
  | best p => exact writeField_offering rfl (scanVerdict_offering q ws)

theorem presetAction_offering (p : PresetPoint) :
    (presetAction p).perform .rstdef d (offering ws s) = offering ws ((presetAction p).perform .rstdef d s) := by
  unfold presetAction
  cases p with
  | trigger p => exact writeField_offering rfl fun _ => rfl
  | settle => rfl

theorem energyAction_offering (p : EnergyPoint) :
    (energyAction p).perform .rdenergy d (offering ws s) =
      offering ws ((energyAction p).perform .rdenergy d s) := by
  cases p <;> exact rd_offering fun _ _ => rfl

end events

/-- No event of a command depends on the words offered. -/
theorem perform_offering (r : Running) (d : Draw) (ws : List Word) (s : State) :
    perform r d (offering ws s) = offering ws (perform r d s) := by
  cases r with
  | rdf a m => exact rd_offering fun _ _ => rfl
  | wrf a m v p => exact writeField_offering (beq_self_eq_true a) fun _ => rfl
  | calrco p => exact rcoAction_offering p
  | calres q p => exact resAction_offering q p
  | rstdef p => exact presetAction_offering p
  | rdenergy p => exact energyAction_offering p

/-- A command goes on in the same way whatever words are offered (R206). -/
theorem resume_offering (ws : List Word) (s : State) : resume (offering ws s) = offering ws (resume s) :=
  run_commutes (f := offering ws) (fun _ => rfl) (fun _ _ => rfl)
    (fun r d s _ => perform_offering r d ws s) s.inputs s

/-- Settles O12: a step while BUSY is `resume`, and what a command does commutes with a change of the offered
words. -/
theorem busyBlockTakesNoWord : Obligations.BusyBlockTakesNoWord := by
  intro s r ws hp hr
  have hport : resume s = offering s.hostPort (resume s) := resume_offering s.hostPort s
  refine ⟨step_exec hp hr, (congrArg State.hostPort hport :), ?_⟩
  rw [step_exec (s := { s with hostPort := ws }) hp hr]
  exact congrArg Host.Outcome.next (resume_offering ws s)

end Sys2Proof.Machine
end

/-! ## The invariant: the working state of a scan -/

section
namespace Sys2Proof.Machine

/-- The part of the invariant that CALRES answers for: the values of CAL_COUNT and CAL_DIFF, and the working state
while it scans (R31, R33). -/
structure CalresLegal (s : State) : Prop where
  calCount : s.calCount.toNat < 2 ^ 31
  calDiff : s.calDiff.toNat < 2 ^ 31
  scan : ∀ d p, s.phase = .exec (.calres d p) → p.scanning = true → ScanInv d p s.work

theorem Inv.calresLegal {s : State} (h : Inv s) : CalresLegal s := ⟨h.calCount, h.calDiff, h.scan⟩

/-! ### The working state from point to point -/

/-- Between the steps that choose a setting only count, prev and t0 are written: the working state stays legal as
long as a count is. -/
theorem ScanInv.move {d : BitVec 2} {p p' : ResPoint} {w : CalWork} {n : Word} {l : Bool} {t : Word}
    (h : ScanInv d p w) (hs : p'.scanned = p.scanned) (hn : p'.counting = true → n.toNat < 2 ^ 31) :
    ScanInv d p' { w with count := n, prev := l, t0 := t } where
  target := h.target
  threshold := h.threshold
  setting := hs ▸ h.setting
  count := hn
  bestCount := h.bestCount
  first := h.first
  best := h.best

/-- The working state as step 1 leaves it (R130). -/
theorem scanInv_scanInit (d : BitVec 2) (s : State) : ScanInv d (.tune .read) (scanInit d s).work where
  target := rfl
  threshold := rfl
  setting := by simp [ResPoint.scanned, scanInit, nTune]
  count := nofun
  bestCount := by simp [scanInit]
  first _ := rfl
  best h := by simp [scanInit] at h

/-- One edge more is still a legal count, below the largest (R128). -/
theorem count_succ_lt {n : Word} (h : n.toNat < 2 ^ 31) (hn : n ≠ countMax) : (n + 1).toNat < 2 ^ 31 := by
  have hm := mt (countMax_iff n).2 hn
  have h1 : (1 : Word).toNat = 1 := rfl
  rw [BitVec.toNat_add, h1]
  omega

/-- The number of the next setting. -/
theorem setting_succ_toNat {i : BitVec 5} (h : i.toNat < nTune) : (i + 1).toNat = i.toNat + 1 := by
  rw [nTune] at h
  have h1 : (1 : BitVec 5).toNat = 1 := rfl
  rw [BitVec.toNat_add, h1]
  omega

/-- Any difference is below the initial bestDiff: the first setting is recorded (R129). -/
theorem lt_bestDiffInit {n : Word} (h : n.toNat < 2 ^ 31) : n.toNat < bestDiffInit.toNat := by
  have : bestDiffInit.toNat = 2 ^ 32 - 1 := rfl
  omega

/-- What is recorded after step g at setting i: the difference of a count below 2^31, of a setting up to i (R31,
R129). -/
theorem scanRecord_best {d : BitVec 2} {p : ResPoint} {w : CalWork} (h : ScanInv d p w)
    (hc : p.counting = true) :
    (scanRecord w).bestCount.toNat < 2 ^ 31 ∧ (scanRecord w).bestSetting.toNat < w.i.toNat + 1 ∧
      (scanRecord w).bestDiff = diffOf w.target (scanRecord w).bestCount ∧
      (scanRecord w).bestDiff.toNat < 2 ^ 31 := by
  have hcount := h.count hc
  have hd : (diffOf w.target w.count).toNat < 2 ^ 31 := h.target ▸ (diffOf_toNat d hcount).2
  by_cases hlt : (diffOf w.target w.count).toNat < w.bestDiff.toNat
  · rw [scanRecord_better hlt]
    refine ⟨hcount, ?_, rfl, hd⟩
    rw [BitVec.toNat_setWidth]
    exact Nat.lt_succ_of_le (Nat.mod_le _ _)
  · rw [scanRecord_keeps hlt]
    have hpos : 0 < w.i.toNat := Nat.pos_of_ne_zero fun h0 => hlt (h.first h0 ▸ lt_bestDiffInit hd)
    obtain ⟨hset, hdiff, hbound⟩ := h.best hpos
    exact ⟨h.bestCount, Nat.lt_succ_of_lt hset, hdiff, hbound⟩

/-- Step g writes nothing but what it records. -/
theorem scanRecord_target (w : CalWork) : (scanRecord w).target = w.target := by
  unfold scanRecord; split <;> rfl

theorem scanRecord_threshold (w : CalWork) : (scanRecord w).threshold = w.threshold := by
  unfold scanRecord; split <;> rfl

/-- The end of a round keeps the working state legal, before setting 15 and after it. -/
theorem scanInv_scanRecord {d : BitVec 2} {p p' : ResPoint} {w : CalWork} (h : ScanInv d p w)
    (hc : p.counting = true) (hi : w.i.toNat < nTune) (hcount : p'.counting = false)
    (hs : p'.scanned = decide (¬ w.i.toNat + 1 < nTune)) :
    ScanInv d p' { scanRecord w with i := w.i + 1 } := by
  obtain ⟨hbest, hset, hdiff, hbound⟩ := scanRecord_best h hc
  have hsucc := setting_succ_toNat hi
  exact {
    target := (scanRecord_target w).trans h.target
    threshold := (scanRecord_threshold w).trans h.threshold
    setting := by
      simp only [hs, hsucc, decide_eq_true_eq]
      split <;> omega
    count := fun h' => by simp [hcount] at h'
    bestCount := hbest
    first := fun h0 => by simp only [hsucc] at h0; omega
    best := fun _ => ⟨hsucc ▸ hset, (scanRecord_target w).symm ▸ hdiff, hbound⟩ }

/-! ### Every event of CALRES -/

section events
variable {d : BitVec 2} {p : ResPoint} {s u : State} {op : Instr}

/-- An event that ends the command. -/
theorem calresLegal_stop (h : CalresLegal s) {c : Code} (hu : Observed op s u) :
    CalresLegal (endCommand (some op) c u) := by
  obtain ⟨m, tr, rfl, -⟩ := hu
  exact ⟨h.calCount, h.calDiff, nofun⟩

/-- An event after which CALRES goes on with a legal working state. -/
theorem calresLegal_goOn (h : CalresLegal s) (hu : Observed op s u) {w : CalWork}
    (hw : p.scanning = true → ScanInv d p w) : CalresLegal (goOn (.calres d p) { u with work := w }) := by
  obtain ⟨m, tr, rfl, -⟩ := hu
  refine ⟨h.calCount, h.calDiff, fun d' p' hp hscan => ?_⟩
  cases hp
  exact hw hscan

/-- A sample of a window: a count stays below 2^31, or ends the command (R128). -/
theorem calresLegal_windowSample (h : CalresLegal s) (hu : Observed (.calres d) s u) (hw : ScanInv d .windowPin u.work)
    (l : Bool) : CalresLegal (windowSample d l u) := by
  have hcount := hw.count rfl
  by_cases hl : l = u.work.prev
  · rw [windowSample_same hl]
    exact calresLegal_goOn h hu fun _ => hw.move rfl fun _ => hcount
  · by_cases hc : u.work.count = countMax
    · rw [windowSample_overflow hl hc]
      exact calresLegal_stop h hu
    · rw [windowSample_edge hl hc]
      exact calresLegal_goOn h hu fun _ => hw.move rfl fun _ => count_succ_lt hcount hc

/-- The end of a round of the scan (R129, R130). -/
theorem calresLegal_scanNext (h : CalresLegal s) (hu : Observed op s u) {b : Rmw} (hw : ScanInv d (.hideLco b) u.work) :
    CalresLegal (scanNext d u) := by
  have hi : u.work.i.toNat < nTune := hw.setting
  by_cases hn : u.work.i.toNat + 1 < nTune
  · rw [scanNext_goes_on hn]
    exact calresLegal_goOn h hu fun _ => scanInv_scanRecord hw rfl hi rfl (by simp [hn, ResPoint.scanned])
  · rw [scanNext_ends hn]
    exact calresLegal_goOn h hu fun _ => scanInv_scanRecord hw rfl hi rfl (by simp [hn, ResPoint.scanned])

/-- The verdict of CALRES writes a count and a difference below 2^31 (R31). -/
theorem calresLegal_scanVerdict {b : Rmw} (hw : ScanInv d (.best b) u.work) : CalresLegal (scanVerdict d u) := by
  have hi : u.work.i.toNat = nTune := hw.setting
  obtain ⟨-, -, hbound⟩ := hw.best (hi ▸ by decide)
  by_cases hv : u.work.bestDiff.toNat < u.work.threshold.toNat
  · rw [scanVerdict_ok hv]
    exact ⟨hw.bestCount, hbound, nofun⟩
  · rw [scanVerdict_fail hv]
    exact ⟨hw.bestCount, hbound, nofun⟩

/-- An event leaves the working state to the command. -/
theorem Observed.work_eq (hu : Observed op s u) : u.work = s.work := by
  obtain ⟨m, tr, rfl, -⟩ := hu
  rfl

theorem calresLegal_writeField {g : RegField} {v : Byte} {b : Rmw} {at_ : Rmw → ResPoint} {k : State → State}
    {D : Draw} (h : CalresLegal s) (ha : storesAt (.calres d) g.addr = true)
    (more : ∀ b u, Observed (.calres d) s u → CalresLegal (goOn (.calres d (at_ (.write b))) u))
    (ok : ∀ u, Observed (.calres d) s u → CalresLegal (k u)) :
    CalresLegal ((writeField g v b (fun q => .calres d (at_ q)) k).perform (.calres d) D s) :=
  writeField_ensures ha (fun _ hu => calresLegal_stop h hu) more ok

/-- Every event of CALRES keeps the working state of a scan legal. -/
theorem resAction_legal {D : Draw} (h : CalresLegal s) (hw : p.scanning = true → ScanInv d p s.work) :
    CalresLegal ((resAction d s p).perform (.calres d) D s) := by
  unfold resAction
  cases p with
  | power =>
    exact checkPowered_ensures (fun _ hu => calresLegal_stop h hu) (fun _ hu => calresLegal_stop h hu)
      fun _ hu => calresLegal_goOn h hu nofun
  | div b =>
    exact calresLegal_writeField h rfl (fun _ _ hu => calresLegal_goOn h hu nofun)
      fun u hu => calresLegal_goOn h hu fun _ => scanInv_scanInit d u
  | tune b =>
    have hw := hw rfl
    exact calresLegal_writeField h rfl (fun _ _ hu => calresLegal_goOn h hu fun _ => hu.work_eq ▸ hw.move rfl nofun)
      fun _ hu => calresLegal_goOn h hu fun _ => hu.work_eq ▸ hw.move rfl nofun
  | settleB => exact dly_ensures fun _ hu => calresLegal_goOn h hu fun _ => hu.work_eq ▸ (hw rfl).move rfl nofun
  | showLco b =>
    have hw := hw rfl
    exact calresLegal_writeField h rfl (fun _ _ hu => calresLegal_goOn h hu fun _ => hu.work_eq ▸ hw.move rfl nofun)
      fun _ hu => calresLegal_goOn h hu fun _ => hu.work_eq ▸ hw.move rfl nofun
  | settleD => exact dly_ensures fun _ hu => calresLegal_goOn h hu fun _ => hu.work_eq ▸ (hw rfl).move rfl nofun
  | windowStart => exact clk_ensures fun _ _ hu => calresLegal_goOn h hu fun _ => hu.work_eq ▸ (hw rfl).move rfl nofun
  | windowRef =>
    exact pin_ensures fun _ _ hu => calresLegal_goOn h hu fun _ => hu.work_eq ▸ (hw rfl).move rfl fun _ => by decide
  | windowClock =>
    have hw := hw rfl
    refine clk_ensures fun t u hu => ?_
    split
    · exact calresLegal_goOn h hu fun _ => hu.work_eq ▸ hw.move rfl fun _ => hw.count rfl
    · exact calresLegal_goOn h hu fun _ => hu.work_eq ▸ hw.move rfl fun _ => hw.count rfl
  | windowPin => exact pin_ensures fun l u hu => calresLegal_windowSample h hu (hu.work_eq ▸ hw rfl) l
  | hideLco b =>
    have hw := hw rfl
    exact calresLegal_writeField h rfl
      (fun _ _ hu => calresLegal_goOn h hu fun _ => hu.work_eq ▸ hw.move rfl fun _ => hw.count rfl)
      fun _ hu => calresLegal_scanNext h hu (hu.work_eq ▸ hw)
  | best b =>
    have hw := hw rfl
    exact calresLegal_writeField h rfl (fun _ _ hu => calresLegal_goOn h hu fun _ => hu.work_eq ▸ hw.move rfl nofun)
      fun _ hu => calresLegal_scanVerdict (hu.work_eq ▸ hw)

end events

end Sys2Proof.Machine
end

/-! ## The invariant: every event, every command, every step -/

section
namespace Sys2Proof.Machine

/-! ### STATUS -/

/-- While a command is in execution, STATUS is legal with BUSY = 1 (R32). -/
theorem statusInv_busy {s t : State} (h : StatusInv s) (hp : t.phase ≠ .idle)
    (ht : t.status = startStatus s.status) : StatusInv t := by
  obtain ⟨hcode, hbusy, hres, hsticky⟩ := startStatus_fields s.status
  exact {
    busy := by simp [ht, hbusy, hp]
    reserved := by rw [ht, hres, h.reserved]
    assigned := by rw [ht, hcode]; exact h.assigned
    sticky := by rw [ht, hcode, hsticky]; exact h.sticky }

/-- A command that has ended has left STATUS legal with BUSY = 0 (R172). -/
theorem statusInv_idle {s t : State} (h : StatusInv s) {c : Code} (hp : t.phase = .idle)
    (ht : t.status = endStatus c s.status) : StatusInv t where
  busy := by simp [ht, endStatus_busy, hp]
  reserved := by rw [ht, endStatus_reserved, h.reserved]
  assigned := by rw [ht, endStatus_code]; exact code_bits_lt c
  sticky hc := by
    rw [ht, endStatus_code, Ne, code_bits_zero] at hc
    simp [ht, endStatus_sticky, hc]

/-- Between two events of a command STATUS is as it was. -/
theorem statusInv_of_eq {s t : State} (h : StatusInv s) (hp : t.phase = .idle ↔ s.phase = .idle)
    (ht : t.status = s.status) : StatusInv t where
  busy := by rw [ht, Ne, hp]; exact h.busy
  reserved := ht ▸ h.reserved
  assigned := ht ▸ h.assigned
  sticky := ht ▸ h.sticky

/-- An event of a command in execution leaves STATUS legal. -/
theorem CommandEffect.statusInv {op : Instr} {s t : State} (h : CommandEffect op s t) (hs : StatusInv s)
    (hp : s.phase ≠ .idle) : StatusInv t := by
  obtain hrun | ⟨c, he⟩ := h.2
  · obtain ⟨r, hr, -⟩ := hrun.phase
    obtain hst | hst := hrun.status
    · exact statusInv_of_eq hs (by simp [hr, hp]) hst
    · exact statusInv_busy hs (by simp [hr]) hst
  · exact statusInv_idle hs he.phase he.status

/-! ### The whole invariant -/

/-- The invariant says nothing of what is outside the block, nor of the trace. -/
theorem Inv.outside {s : State} (h : Inv s) (ws : List Word) (xs : List Input) (tr : List Event) :
    Inv { s with hostPort := ws, inputs := xs, trace := tr } :=
  ⟨⟨h.status.busy, h.status.reserved, h.status.assigned, h.status.sticky⟩, h.init, h.calCount, h.calDiff, h.scan,
    h.sim⟩

/-- A command that ends leaves the machine legal, whatever it has made of INIT and RESULT. -/
theorem Inv.ended {s : State} (h : Inv s) (op : Option Instr) (c : Code) (b : Bool) (v : Word) :
    Inv (endCommand op c { s with init := b, result := v }) :=
  ⟨statusInv_idle h.status rfl rfl, fun hp => absurd rfl hp, h.calCount, h.calDiff, nofun, h.sim⟩

/-- A command other than CALRES has nothing to do with a scan. -/
theorem CommandEffect.calresLegal {op : Instr} {s t : State} (h : CommandEffect op s t) (hop : isCalres op = false)
    (hs : CalresLegal s) : CalresLegal t := by
  obtain ⟨-, hcount, hdiff⟩ := h.calRegisters_kept hop
  refine ⟨hcount ▸ hs.calCount, hdiff ▸ hs.calDiff, fun d p hp _ => ?_⟩
  obtain ⟨rfl, -⟩ := h.running hp
  cases hop

/-- Every event keeps what the invariant says of CALRES. -/
theorem perform_calresLegal {r : Running} {s : State} (hp : s.phase = .exec r) (h : CalresLegal s) (d : Draw) :
    CalresLegal (perform r d s) := by
  cases r with
  | calres q p => exact resAction_legal h (h.scan q p hp)
  | _ => exact (perform_effect _ d s).calresLegal rfl h

/-- A command in execution is one that uses the bus. -/
theorem Running.op_ne_begin (r : Running) : r.op ≠ .begin := by cases r <;> nofun

/-- Every event keeps the machine legal. -/
theorem perform_inv {r : Running} {s : State} (hp : s.phase = .exec r) (h : Inv s) (d : Draw) :
    Inv (perform r d s) := by
  have hbusy : s.phase ≠ .idle := by simp [hp]
  have heff := perform_effect r d s
  obtain ⟨hcount, hdiff, hscan⟩ := perform_calresLegal hp h.calresLegal d
  exact {
    status := heff.statusInv h.status hbusy
    init := fun _ => (heff.1.init r.op_ne_begin).trans (h.init hbusy)
    calCount := hcount
    calDiff := hdiff
    scan := hscan
    sim := heff.1.sensor.wf h.sim }

/-- A command that runs on keeps the machine legal. -/
theorem run_inv (xs : List Input) {s : State} (h : Inv s) : Inv (run xs s) :=
  run_keeps (P := Inv) (fun s xs h => h.outside s.hostPort xs s.trace) (fun _ d _ hp h => perform_inv hp h d) xs s h

/-- A command that begins is before its first event, and so before any scan. -/
theorem enter_inv {r : Running} {s : State} (h : Inv s) (hi : s.init = true) (hr : r.index = 0) :
    Inv (enter r (accept s)) where
  status := statusInv_busy h.status nofun rfl
  init _ := hi
  calCount := h.calCount
  calDiff := h.calDiff
  scan d p hp hscan := by
    cases hp
    cases p with
    | power => cases hscan
    | div q => cases hscan
    | tune q => simp [Running.index] at hr
    | showLco q => simp [Running.index] at hr
    | hideLco q => simp [Running.index] at hr
    | best q => simp [Running.index] at hr
    | _ => cases hr
  sim := h.sim

/-- Executing any command keeps the machine legal. -/
theorem exec_inv {i : Instr} {s t : State} (h : Inv s) (he : exec i s = .next t) : Inv t := by
  have ha : Inv (accept s) := h.outside s.hostPort s.inputs []
  obtain ⟨-, hi, r, -, hr, rfl⟩ | ⟨-, -, rfl⟩ | ⟨-, -, rfl⟩ | ⟨-, -, rfl⟩ | ⟨m, -, rfl⟩ := exec_cases he
  · exact run_inv _ (enter_inv h hi hr)
  · exact ha.ended _ _ s.init s.result
  · exact ha.ended _ _ true s.result
  · exact ha.ended _ _ false s.result
  · exact ha.ended _ _ s.init _

/-- A write that a reset cuts leaves SIM in canonical form (R54, R197). -/
theorem cutWrite_sensor_wf {s : State} (h : s.sensor.mem.wf = true) : (cutWrite s).sensor.mem.wf = true := by
  cases hp : s.phase with
  | idle => rw [cutWrite_idle hp]; exact h
  | exec r =>
    cases ha : action r s with
    | wr a b k => rw [cutWrite_of_write hp ha]; exact Sensor.store_wf a b h
    | _ => rw [cutWrite_of_noWrite hp (by simp [ha])]; exact h

/-- The values of reset are legal ones: only SIM, which reset leaves, has to be so before (R195). -/
theorem blockReset_inv {s : State} (h : s.sensor.mem.wf = true) : Inv (blockReset s) where
  status := {
    busy := by rw [blockReset_status, blockReset_phase]; decide
    reserved := by rw [blockReset_status]; decide
    assigned := by rw [blockReset_status]; decide
    sticky := by rw [blockReset_status]; decide }
  init hp := absurd rfl hp
  calCount := by rw [blockReset_calCount]; decide
  calDiff := by rw [blockReset_calDiff]; decide
  scan := nofun
  sim := h

theorem takeReset_inv (b : Bool) {s : State} (h : s.sensor.mem.wf = true) : Inv (takeReset b s) := by
  cases b with
  | true => exact blockReset_inv (cutWrite_sensor_wf h)
  | false => exact blockReset_inv h

/-- Everything a step can be: a reset, a command that goes on, a word taken that is a command or that is none, or
nothing (R32, R70, R174, R195). -/
theorem step_cases {s t : State} (h : step s = .next t) :
    (∃ b rest, s.inputs = .reset b :: rest ∧ t = takeReset b { s with inputs := rest }) ∨
    (∀ b rest, s.inputs ≠ .reset b :: rest) ∧
      ((∃ r, s.phase = .exec r ∧ t = resume s) ∨
       s.phase = .idle ∧
        ((∃ w ws i, s.hostPort = w :: ws ∧ decode w = .ok i ∧ exec i { s with hostPort := ws } = .next t) ∨
         (∃ w ws e, s.hostPort = w :: ws ∧ decode w = .error e ∧ t = illegalWord { s with hostPort := ws }) ∨
         s.hostPort = [] ∧ t = s)) := by
  by_cases hr : ∃ b rest, s.inputs = .reset b :: rest
  · obtain ⟨b, rest, hr⟩ := hr
    rw [step_reset hr] at h
    cases h
    exact .inl ⟨b, rest, hr, rfl⟩
  · have hr : ∀ b rest, s.inputs ≠ .reset b :: rest := fun b rest he => hr ⟨b, rest, he⟩
    refine .inr ⟨hr, ?_⟩
    cases hp : s.phase with
    | exec r =>
      rw [step_exec hp hr] at h
      cases h
      exact .inl ⟨r, rfl, rfl⟩
    | idle =>
      refine .inr ⟨rfl, ?_⟩
      cases hw : s.hostPort with
      | nil =>
        rw [step_nothing hp hr hw] at h
        cases h
        exact .inr (.inr ⟨rfl, rfl⟩)
      | cons w ws =>
        cases hd : decode w with
        | ok i =>
          rw [step_take hp hr hw hd] at h
          exact .inl ⟨w, ws, i, rfl, hd, h⟩
        | error e =>
          rw [step_illegal hp hr hw hd] at h
          cases h
          exact .inr (.inl ⟨w, ws, e, rfl, hd, rfl⟩)

/-- Settles O52: the invariant over each kind of step. -/
theorem stepKeepsMachineLegal : Obligations.StepKeepsMachineLegal := by
  intro s t h hstep
  obtain ⟨b, rest, -, rfl⟩ | ⟨-, ⟨-, -, rfl⟩ | ⟨-, ⟨w, ws, i, -, -, he⟩ | ⟨w, ws, e, -, -, rfl⟩ | ⟨-, rfl⟩⟩⟩ :=
    step_cases hstep
  · exact takeReset_inv b h.sim
  · exact run_inv _ h
  · exact exec_inv (h.outside ws s.inputs s.trace) he
  · exact (h.outside ws s.inputs []).ended none .illegal s.init s.result
  · exact h

end Sys2Proof.Machine
end

/-! ## CALRES and the working state it finds -/

section
namespace Sys2Proof.Machine

/-- The same state with another working state. -/
def withWork (w : CalWork) (s : State) : State := { s with work := w }

theorem unseen_withWork (w : CalWork) : Unseen (withWork w) :=
  ⟨fun _ => rfl, fun _ _ => rfl, fun _ _ => rfl, fun _ _ _ _ => rfl⟩

/-- Two working states that CALRES cannot tell apart from the point p on (R33): from the scan on they differ in count,
prev and t0 at most, which each window writes again: t0 before the reference sample, the other two with it. -/
structure AgreeAt (p : ResPoint) (w w' : CalWork) : Prop where
  scan : p.scanning = true → ∃ n l t, w' = { w with count := n, prev := l, t0 := t }
  start : p = .windowRef → w'.t0 = w.t0
  window : p.counting = true → w' = w

theorem AgreeAt.refl (p : ResPoint) (w : CalWork) : AgreeAt p w w :=
  ⟨fun _ => ⟨_, _, _, rfl⟩, fun _ => rfl, fun _ => rfl⟩

/-- At a point where count, prev and t0 are not used. -/
theorem AgreeAt.move {p p' : ResPoint} {w w' : CalWork} (h : AgreeAt p w w') (hp : p.scanning = true)
    (hr : p' ≠ .windowRef) (hc : p'.counting = false) : AgreeAt p' w w' :=
  ⟨fun _ => h.scan hp, fun he => absurd he hr, fun he => by simp [hc] at he⟩

/-- Before the scan nothing is read. -/
theorem agreeAt_start {p : ResPoint} (w w' : CalWork) (hp : p.scanning = false) (hr : p ≠ .windowRef)
    (hc : p.counting = false) : AgreeAt p w w' :=
  ⟨fun he => by simp [hp] at he, fun he => absurd he hr, fun he => by simp [hc] at he⟩

/-- Two states of one CALRES that differ in the working state at most, and there in nothing that it will read. -/
def CalresAlike (s s' : State) : Prop :=
  ∃ w, s' = withWork w s ∧ ∀ r, s.phase = .exec r → ∃ d p, r = .calres d p ∧ AgreeAt p s.work w

theorem Running.eq_calres {r : Running} {d : BitVec 2} (h : r.op = .calres d) : ∃ p, r = .calres d p := by
  cases r with
  | calres d' p => cases h; exact ⟨p, rfl⟩
  | _ => cases h

theorem CommandEffect.alike_self {d : BitVec 2} {s t : State} (h : CommandEffect (.calres d) s t) :
    CalresAlike t t := by
  refine ⟨t.work, rfl, fun r hp => ?_⟩
  obtain ⟨p, rfl⟩ := Running.eq_calres (h.running hp).1
  exact ⟨d, p, rfl, .refl p _⟩

/-- A command that has ended reads nothing. -/
theorem alike_end {op : Option Instr} {c : Code} (w : CalWork) (u : State) :
    CalresAlike (endCommand op c u) (endCommand op c (withWork w u)) :=
  ⟨w, rfl, nofun⟩

section continuations
variable {d : BitVec 2} {p : ResPoint} {u : State} {w w' : CalWork}

theorem alike_goOn (h : AgreeAt p u.work w) :
    CalresAlike (goOn (.calres d p) u) (goOn (.calres d p) (withWork w u)) :=
  ⟨w, rfl, fun r hr => ⟨d, p, by cases hr; rfl, h⟩⟩

/-- The same after both have written their working states. -/
theorem alike_goOn_work (h : AgreeAt p w w') :
    CalresAlike (goOn (.calres d p) (withWork w u)) (goOn (.calres d p) (withWork w' u)) :=
  alike_goOn (u := withWork w u) h

/-- Step 1 sets everything but what a window sets (R130). -/
theorem alike_scanInit :
    CalresAlike (goOn (.calres d (.tune .read)) (scanInit d u))
      (goOn (.calres d (.tune .read)) (scanInit d (withWork w u))) :=
  alike_goOn_work ⟨fun _ => ⟨w.count, w.prev, w.t0, rfl⟩, nofun, nofun⟩

/-- The window's first clock read sets t0 (R123). -/
theorem alike_windowStart (h : AgreeAt .windowStart u.work w) (t : Word) :
    CalresAlike (goOn (.calres d .windowRef) { u with work.t0 := t })
      (goOn (.calres d .windowRef) { withWork w u with work.t0 := t }) := by
  obtain ⟨n, l, t', rfl⟩ := h.scan rfl
  exact alike_goOn_work ⟨fun _ => ⟨n, l, t, rfl⟩, fun _ => rfl, nofun⟩

/-- The reference sample sets prev and count, and from there on the two working states are one (R123). -/
theorem alike_windowReference (h : AgreeAt .windowRef u.work w) (l : Bool) :
    CalresAlike (goOn (.calres d .windowClock) (windowReference l u))
      (goOn (.calres d .windowClock) (windowReference l (withWork w u))) := by
  have ht := h.start rfl
  obtain ⟨n, l', t', rfl⟩ := h.scan rfl
  dsimp only at ht
  subst ht
  exact alike_goOn_work (.refl _ _)

/-- The verdict reads nothing that a window sets (R127, R130). -/
theorem alike_scanVerdict {b : Rmw} (h : AgreeAt (.best b) u.work w) :
    CalresAlike (scanVerdict d u) (scanVerdict d (withWork w u)) := by
  have hsame : scanVerdict d (withWork w u) = withWork w (scanVerdict d u) := by
    obtain ⟨n, l, t, rfl⟩ := h.scan rfl
    unfold scanVerdict
    rw [apply_ite (withWork _)]
    rfl
  have hidle : (scanVerdict d u).phase = .idle := by
    unfold scanVerdict
    split <;> rfl
  exact ⟨w, hsame, fun r hr => by cases hidle.symm.trans hr⟩

end continuations

section events
variable {d : BitVec 2} {D : Draw} {s : State} {w : CalWork}

theorem alike_checkPowered {k : State → State}
    (ok : ∀ u, Observed (.calres d) s u → CalresAlike (k u) (k (withWork w u))) :
    CalresAlike ((checkPowered (.calres d) k).perform (.calres d) D s)
      ((checkPowered (.calres d) k).perform (.calres d) D (withWork w s)) :=
  rd_related (unseen_withWork w) (fun u _ => alike_end w u) fun b u hu => by
    dsimp only
    split
    · exact alike_end w u
    · exact ok u hu

theorem alike_writeField {g : RegField} {v : Byte} {b : Rmw} {at_ : Rmw → ResPoint} {k : State → State}
    (ha : storesAt (.calres d) g.addr = true) (more : ∀ b, AgreeAt (at_ (.write b)) s.work w)
    (ok : ∀ u, Observed (.calres d) s u → CalresAlike (k u) (k (withWork w u))) :
    CalresAlike ((writeField g v b (fun q => .calres d (at_ q)) k).perform (.calres d) D s)
      ((writeField g v b (fun q => .calres d (at_ q)) k).perform (.calres d) D (withWork w s)) :=
  writeField_related (unseen_withWork w) ha (fun u _ => alike_end w u)
    (fun b _ hu => alike_goOn (hu.work_eq ▸ more b)) ok

/-- No event tells two working states apart that agree where it stands. -/
theorem resAction_alike {p : ResPoint} (h : AgreeAt p s.work w) :
    CalresAlike ((resAction d s p).perform (.calres d) D s)
      ((resAction d (withWork w s) p).perform (.calres d) D (withWork w s)) := by
  have hu {u : State} (hu : Observed (.calres d) s u) : AgreeAt p u.work w := hu.work_eq ▸ h
  by_cases hc : p.counting = true
  · obtain rfl := h.window hc
    exact (resAction_effect d p).alike_self
  · unfold resAction
    cases p with
    | power => exact alike_checkPowered fun _ _ => alike_goOn (agreeAt_start _ _ rfl nofun rfl)
    | div b => exact alike_writeField rfl (fun _ => agreeAt_start _ _ rfl nofun rfl) fun _ _ => alike_scanInit
    | tune b =>
      have hi : w.i = s.work.i := by obtain ⟨n, l, t, rfl⟩ := h.scan rfl; rfl
      simp only [withWork, hi]
      exact alike_writeField rfl (fun _ => h.move rfl nofun rfl) fun _ ho => alike_goOn ((hu ho).move rfl nofun rfl)
    | settleB => exact dly_related (unseen_withWork w) fun _ ho => alike_goOn ((hu ho).move rfl nofun rfl)
    | showLco b =>
      exact alike_writeField rfl (fun _ => h.move rfl nofun rfl) fun _ ho => alike_goOn ((hu ho).move rfl nofun rfl)
    | settleD => exact dly_related (unseen_withWork w) fun _ ho => alike_goOn ((hu ho).move rfl nofun rfl)
    | windowStart => exact clk_related (unseen_withWork w) fun t _ ho => alike_windowStart (hu ho) t
    | windowRef => exact pin_related (unseen_withWork w) fun l _ ho => alike_windowReference (hu ho) l
    | best b =>
      have hb : w.bestSetting = s.work.bestSetting := by obtain ⟨n, l, t, rfl⟩ := h.scan rfl; rfl
      simp only [withWork, hb]
      exact alike_writeField rfl (fun _ => h.move rfl nofun rfl) fun _ ho => alike_scanVerdict (hu ho)
    | _ => exact absurd rfl hc

end events

/-- A relation that does not depend on the inputs and that every event keeps holds between two runs on the same
inputs. -/
theorem run_related {R : State → State → Prop} (phase : ∀ s s', R s s' → s'.phase = s.phase)
    (inputs : ∀ s s' xs, R s s' → R { s with inputs := xs } { s' with inputs := xs })
    (event : ∀ r d s s', s.phase = .exec r → R s s' → R (perform r d s) (perform r d s')) :
    ∀ xs s s', R s s' → R (run xs s) (run xs s')
  | [], s, s', h => inputs s s' [] h
  | x :: xs, s, s', h => by
    have hp' := phase s s' h
    cases hp : s.phase with
    | idle => rw [run_idle hp, run_idle (hp'.trans hp)]; exact inputs s s' _ h
    | exec r =>
      rw [hp] at hp'
      cases x with
      | answer d =>
        rw [run_answer hp, run_answer hp']
        exact run_related phase inputs event xs _ _ (event r d s s' hp h)
      | wait => rw [run_wait hp, run_wait hp']; exact inputs s s' _ h
      | reset reached => rw [run_reset hp, run_reset hp']; exact inputs s s' _ h

/-- CALRES runs alike from two states that are alike. -/
theorem run_alike (xs : List Input) {s s' : State} (h : CalresAlike s s') : CalresAlike (run xs s) (run xs s') := by
  refine run_related ?_ ?_ ?_ xs s s' h
  · rintro s _ ⟨w, rfl, -⟩
    rfl
  · rintro s _ xs ⟨w, rfl, h⟩
    exact ⟨w, rfl, h⟩
  · rintro r D s _ hp ⟨w, rfl, h⟩
    obtain ⟨d, p, rfl, ha⟩ := h r hp
    exact resAction_alike ha

/-- Settles O51: before its first event CALRES has read nothing, and what it has not written it does not read. -/
theorem calresIgnoresOldWorkingState : Obligations.CalresIgnoresOldWorkingState := by
  intro d s w
  change ∃ t w', exec (.calres d) s = .next t ∧ exec (.calres d) (withWork w s) = .next (withWork w' t)
  cases hi : s.init with
  | false => exact ⟨_, w, busCommand_notInit hi _, busCommand_notInit (s := withWork w s) hi _⟩
  | true =>
    have hstart : CalresAlike (enter (.calres d .power) (accept s))
        (enter (.calres d .power) (accept (withWork w s))) :=
      ⟨w, rfl, fun r hr => ⟨d, .power, by cases hr; rfl, agreeAt_start _ _ rfl nofun rfl⟩⟩
    obtain ⟨w', hw, -⟩ := run_alike s.inputs hstart
    exact ⟨_, w', busCommand_init hi _,
      (busCommand_init (s := withWork w s) hi _).trans (congrArg Host.Outcome.next hw)⟩

end Sys2Proof.Machine
end

/-! ## Tier 1: the register map, the first point of a command, reset, and the host's read -/

section
namespace Sys2Proof.Machine

/-- Settles O10: both tables are finite and fixed, so each clause is computed. -/
theorem registerMapAndPseudoInstructions : Obligations.RegisterMapAndPseudoInstructions := by
  refine ⟨rfl, rfl, ?_, ?_, rfl, ?_, ?_, ?_⟩ <;> decide

/-- Executing a command that uses the bus has a next state. -/
theorem busCommand_next (r : Running) (s : State) : ∃ t, busCommand r s = .next t := by
  cases hi : s.init with
  | true => exact ⟨_, busCommand_init hi r⟩
  | false => exact ⟨_, busCommand_notInit hi r⟩

theorem exec_next (i : Instr) (s : State) : ∃ t, exec i s = .next t := by
  cases i with
  | begin =>
    rw [exec, execBegin]
    split
    · exact ⟨_, rfl⟩
    · exact ⟨_, rfl⟩
  | mshift m => exact ⟨_, rfl⟩
  | _ => exact busCommand_next _ s

/-- Settles O14: of all that executing a command can be, only the run from its first point is left, and it has no
answer to run on. -/
theorem busCommandBeginsAndWaits : Obligations.BusCommandBeginsAndWaits := by
  intro i s hbus hinit hinputs
  obtain ⟨t, ht⟩ := exec_next i s
  obtain ⟨-, -, r, hop, hindex, rfl⟩ | ⟨-, hn, -⟩ | ⟨rfl, -⟩ | ⟨rfl, -⟩ | ⟨m, rfl, -⟩ := exec_cases ht
  · refine ⟨r, hop, hindex, ?_⟩
    rw [ht, hinputs, run_nil, ← hinputs]
    rfl
  · simp [hinit] at hn
  · cases hbus
  · cases hbus
  · cases hbus

/-- Numbers 7 to 255 read as 0 (R23). -/
theorem hostRead_unassigned (s : State) {n : Byte} (h : 7 ≤ n.toNat) : hostRead s n = 0 := by
  unfold hostRead
  split
  case h_8 => rfl
  all_goals omega

/-- STATUS as the host reads it: CODE, BUSY and STICKY at their places, the reserved bits 0 (R24, R30). -/
theorem statusRead_toNat (st : Byte) :
    (statusRead st).toNat =
      (statusCode st).toNat + (if statusBusy st then 16 else 0) + (if statusSticky st then 128 else 0) := by
  revert st
  decide

/-- A 1-bit register reads as 0 or 1. -/
theorem zext32_ofBool (b : Bool) : zext32 (BitVec.ofBool b) = if b then 1 else 0 := by
  cases b <;> rfl

/-- Settles O19: register by register. -/
theorem hostRegisterRead : Obligations.HostRegisterRead := by
  intro s
  refine ⟨?_, rfl, ?_, rfl, rfl, ?_, ?_, fun n => hostRead_unassigned s⟩
  · exact (BitVec.toNat_setWidth_of_le (by decide)).trans (statusRead_toNat s.status)
  · exact BitVec.toNat_setWidth_of_le (by decide)
  · exact zext32_ofBool s.calSuccess
  · exact zext32_ofBool s.init

/-- Every register reads 0 after reset. -/
theorem hostRead_reset (n : Byte) : hostRead State.reset n = 0 := by
  unfold hostRead
  split <;> rfl

/-- Settles O17: the values of the reset state, and what the host reads of them. -/
theorem stateAfterReset : Obligations.StateAfterReset :=
  ⟨rfl, rfl, rfl, rfl, rfl, rfl, rfl, rfl, hostRead_reset⟩

end Sys2Proof.Machine
end

/-! ## Proofs of the family 20_memory.md: the transport variant shows in no event -/

section
namespace Sys2Proof.Machine

/-- The same state under the transport variant x (R21). -/
def withXport (x : Xport) (s : State) : State := { s with config := { s.config with xportSel := x } }

theorem unseen_withXport (x : Xport) : Unseen (withXport x) :=
  ⟨fun _ => rfl, fun _ _ => rfl, fun _ _ => rfl, fun _ _ _ _ => rfl⟩

/-- The next event does not depend on the variant: of the configuration it reads the two settle times at most (R132). -/
theorem action_withXport (r : Running) (x : Xport) (s : State) : action r (withXport x s) = action r s := rfl

/-! ### How a command goes on under either variant -/

/-- Whatever the answer, the command goes on after this event in the same way before and after the change f. -/
def Action.GoesOnAlike (f : State → State) : Action → Prop
  | .rd _ k => ∀ b u, k b (f u) = f (k b u)
  | .wr _ _ k => ∀ u, k (f u) = f (k u)
  | .clk k => ∀ t u, k t (f u) = f (k t u)
  | .pin k => ∀ l u, k l (f u) = f (k l u)
  | .dly _ k => ∀ u, k (f u) = f (k u)

/-- An event that the change f does not reach, with a command that goes on alike after it. -/
theorem Action.GoesOnAlike.perform {f : State → State} {act : Action} (h : act.GoesOnAlike f) (hf : Unseen f)
    {op : Instr} (hend : ∀ u, endCommand (some op) .transportError (f u) = f (endCommand (some op) .transportError u))
    (d : Draw) (s : State) : act.perform op d (f s) = f (act.perform op d s) := by
  cases act with
  | rd a k => exact rd_related (R := fun t t' => t' = f t) hf (fun u _ => hend u) fun b u _ => h b u
  | wr a b k =>
    cases hw : s.sensor.writeAnswer d with
    | false =>
      rw [perform_wr_err _ _ _ hw, perform_wr_err _ _ _ ((hf.sensor s).symm ▸ hw), hf.record]
      exact hend _
    | true =>
      rw [perform_wr_ok _ _ _ hw, perform_wr_ok _ _ _ ((hf.sensor s).symm ▸ hw), hf.deliver, hf.record]
      exact h _
  | clk k => exact clk_related (R := fun t t' => t' = f t) hf fun t u _ => h t u
  | pin k => exact pin_related (R := fun t t' => t' = f t) hf fun l u _ => h l u
  | dly us k => exact dly_related (R := fun t t' => t' = f t) hf fun u _ => h u

section continuations
variable (x : Xport)

theorem writeField_goesOnAlike {g : RegField} {v : Byte} {p : Rmw} {at_ : Rmw → Running} {k : State → State}
    (hk : ∀ u, k (withXport x u) = withXport x (k u)) :
    (writeField g v p at_ k).GoesOnAlike (withXport x) := by
  cases p with
  | read => exact fun _ _ => rfl
  | write b => exact hk

/-- A branch whose condition does not depend on the variant, and whose two sides are alike. -/
theorem ite_withXport {c : Prop} [Decidable c] {t e t' e' : State} (ht : t' = withXport x t)
    (he : e' = withXport x e) : (if c then t' else e') = withXport x (if c then t else e) := by
  rw [ht, he, apply_ite (withXport x)]

theorem checkPowered_goesOnAlike {op : Instr} {k : State → State}
    (hk : ∀ u, k (withXport x u) = withXport x (k u)) : (checkPowered op k).GoesOnAlike (withXport x) :=
  fun _ u => ite_withXport x rfl (hk u)

theorem rcoVerdict_withXport (t v : Byte) (u : State) :
    rcoVerdict t v (withXport x u) = withXport x (rcoVerdict t v u) :=
  ite_withXport x rfl rfl

theorem windowSample_withXport (q : BitVec 2) (l : Bool) (u : State) :
    windowSample q l (withXport x u) = withXport x (windowSample q l u) :=
  ite_withXport x (ite_withXport x rfl rfl) rfl

theorem scanNext_withXport (q : BitVec 2) (u : State) : scanNext q (withXport x u) = withXport x (scanNext q u) :=
  ite_withXport x rfl rfl

theorem scanVerdict_withXport (q : BitVec 2) (u : State) :
    scanVerdict q (withXport x u) = withXport x (scanVerdict q u) :=
  ite_withXport x rfl rfl

theorem rcoAction_goesOnAlike (p : RcoPoint) : (rcoAction p).GoesOnAlike (withXport x) := by
  unfold rcoAction
  cases p with
  | power => exact checkPowered_goesOnAlike x fun _ => rfl
  | settle => exact fun _ => rfl
  | trco => exact fun _ _ => rfl
  | srco t => exact fun b => rcoVerdict_withXport x t (extractField fSrcoNok.mask b)
  | _ => exact writeField_goesOnAlike x fun _ => rfl

theorem resAction_goesOnAlike (q : BitVec 2) (s : State) (p : ResPoint) :
    (resAction q s p).GoesOnAlike (withXport x) := by
  unfold resAction
  cases p with
  | power => exact checkPowered_goesOnAlike x fun _ => rfl
  | settleB => exact fun _ => rfl
  | settleD => exact fun _ => rfl
  | windowStart => exact fun _ _ => rfl
  | windowRef => exact fun _ _ => rfl
  | windowClock => exact fun _ _ => ite_withXport x rfl rfl
  | windowPin => exact windowSample_withXport x q
  | hideLco b => exact writeField_goesOnAlike x (scanNext_withXport x q)
  | best b => exact writeField_goesOnAlike x (scanVerdict_withXport x q)
  | _ => exact writeField_goesOnAlike x fun _ => rfl

theorem presetAction_goesOnAlike (p : PresetPoint) : (presetAction p).GoesOnAlike (withXport x) := by
  unfold presetAction
  cases p with
  | trigger b => exact writeField_goesOnAlike x fun _ => rfl
  | settle => exact fun _ => rfl

/-- No command in execution reads or writes the variant as it goes on. -/
theorem action_goesOnAlike (r : Running) (s : State) : (action r s).GoesOnAlike (withXport x) := by
  cases r with
  | rdf a m => exact fun _ _ => rfl
  | wrf a m v p => exact writeField_goesOnAlike x fun _ => rfl
  | calrco p => exact rcoAction_goesOnAlike x p
  | calres q p => exact resAction_goesOnAlike x q s p
  | rstdef p => exact presetAction_goesOnAlike x p
  | rdenergy p => cases p <;> exact fun _ _ => rfl

end continuations

/-! ### A whole command under either variant -/

theorem perform_withXport (r : Running) (d : Draw) (x : Xport) (s : State) :
    perform r d (withXport x s) = withXport x (perform r d s) := by
  rw [perform, action_withXport]
  exact (action_goesOnAlike x r s).perform (unseen_withXport x) (fun _ => rfl) d s

theorem run_withXport (x : Xport) (xs : List Input) (s : State) : run xs (withXport x s) = withXport x (run xs s) :=
  run_commutes (f := withXport x) (fun _ => rfl) (fun _ _ => rfl) (fun r d s _ => perform_withXport r d x s) xs s

/-- A command that uses the bus is refused, or begins and runs, alike under either variant (R52, R173). -/
theorem busCommand_withXport (r : Running) (s : State) (x : Xport) :
    ∃ t, busCommand r s = .next t ∧ busCommand r (withXport x s) = .next (withXport x t) := by
  cases hi : s.init with
  | false => exact ⟨_, busCommand_notInit hi r, busCommand_notInit (s := withXport x s) hi r⟩
  | true =>
    refine ⟨_, busCommand_init hi r, (busCommand_init (s := withXport x s) hi r).trans ?_⟩
    exact congrArg Host.Outcome.next (run_withXport x s.inputs (enter r (accept s)))

/-- Settles O32: MSHIFT performs no event, and no event of the commands that use the bus reads XPORT_SEL. -/
theorem transportVariantInvisible : Obligations.TransportVariantInvisible := by
  intro i s x hi
  cases i with
  | begin => exact absurd rfl hi
  | mshift m => exact ⟨_, rfl, rfl⟩
  | _ => exact busCommand_withXport _ s x

end Sys2Proof.Machine
end

/-! ## The SPI address byte -/

section
namespace Sys2Proof.Machine

theorem spiAddressByte_read (c : Config) (a : Addr) : spiAddressByte c true a = c.spiReadFlag ||| a.setWidth 8 := rfl

/-- A register address leaves bits 7:6 of the byte clear (R69). -/
theorem setWidth_addr_toNat (a : Addr) : (a.setWidth 8).toNat = a.toNat := BitVec.toNat_setWidth_of_le (by decide)

/-- Bit 7 is clear in an address, so setting it adds 128. -/
theorem or_bit7_addr_toNat (a : Addr) : ((0x80 : Byte) ||| a.setWidth 8).toNat = 128 + a.toNat := by
  have ha : a.toNat < 2 ^ 7 := by omega
  rw [BitVec.toNat_or, setWidth_addr_toNat]
  exact (Nat.two_pow_add_eq_or_of_lt ha 1).symm

/-- Settles O31: the two directions of a transfer, and the default flag. -/
theorem spiAddressByte_spec : Obligations.SpiAddressByte := by
  intro c a
  refine ⟨setWidth_addr_toNat a, spiAddressByte_read c a, fun hflag => ?_⟩
  rw [spiAddressByte_read, hflag, or_bit7_addr_toNat]

end Sys2Proof.Machine
end

/-! ## Proofs of the family 30_encoding.md: the fields of a word -/

section
namespace Sys2Proof

/-- DIV is bits 1:0 of VAL (R72). -/
theorem divField_eq (w : Word) : divField w = (valField w).setWidth 2 := by
  simp [divField, valField, BitVec.setWidth_extractLsb'_of_le]

/-! ### A word is its five fields (R71) -/

@[simp] theorem opField_packC (op : BitVec 4) (a : Addr) (m v : Byte) : opField (packC op a m v) = op :=
  BitVec.eq_of_toNat_eq (congrArg FormatC.op (Laws.WordWellFormed.formatC_packC op a m v))

@[simp] theorem rsvField_packC (op : BitVec 4) (a : Addr) (m v : Byte) : rsvField (packC op a m v) = 0 :=
  BitVec.eq_of_toNat_eq (congrArg FormatC.rsv (Laws.WordWellFormed.formatC_packC op a m v))

@[simp] theorem addrField_packC (op : BitVec 4) (a : Addr) (m v : Byte) : addrField (packC op a m v) = a :=
  BitVec.eq_of_toNat_eq (congrArg FormatC.addr (Laws.WordWellFormed.formatC_packC op a m v))

@[simp] theorem maskField_packC (op : BitVec 4) (a : Addr) (m v : Byte) : maskField (packC op a m v) = m :=
  BitVec.eq_of_toNat_eq (congrArg FormatC.mask (Laws.WordWellFormed.formatC_packC op a m v))

@[simp] theorem valField_packC (op : BitVec 4) (a : Addr) (m v : Byte) : valField (packC op a m v) = v :=
  BitVec.eq_of_toNat_eq (congrArg FormatC.val (Laws.WordWellFormed.formatC_packC op a m v))

/-- The five fields together are all 32 bits. -/
theorem fields_append (w : Word) :
    opField w ++ (rsvField w ++ (addrField w ++ (maskField w ++ valField w))) = w := by
  apply BitVec.eq_of_toNat_eq
  simp only [Machine.toNat_append_mul, opField, rsvField, addrField, maskField, valField, BitVec.extractLsb'_toNat,
    Nat.shiftRight_eq_div_pow]
  omega

theorem word_eq_iff_fields (w w' : Word) :
    w = w' ↔ opField w = opField w' ∧ rsvField w = rsvField w' ∧ addrField w = addrField w' ∧
      maskField w = maskField w' ∧ valField w = valField w' := by
  constructor
  · rintro rfl
    simp only [and_self]
  · rintro ⟨hop, hrsv, haddr, hmask, hval⟩
    rw [← fields_append w, hop, hrsv, haddr, hmask, hval, fields_append]

/-! ### The rows of the opcode map (R73) -/

/-- A row's match, field by field. -/
theorem selects_iff_fields (r : OpRow) (w : Word) :
    r.selects w = true ↔ opField w &&& opField r.mask = opField r.value ∧
      rsvField w &&& rsvField r.mask = rsvField r.value ∧ addrField w &&& addrField r.mask = addrField r.value ∧
      maskField w &&& maskField r.mask = maskField r.value ∧ valField w &&& valField r.mask = valField r.value := by
  simp only [OpRow.selects, beq_iff_eq, word_eq_iff_fields, opField, rsvField, addrField, maskField, valField,
    BitVec.extractLsb'_and]

theorem packC_eq_iff_fields (op : BitVec 4) (a : Addr) (m v : Byte) (w : Word) :
    packC op a m v = w ↔ opField w = op ∧ rsvField w = 0 ∧ addrField w = a ∧ maskField w = m ∧ valField w = v := by
  rw [eq_comm, word_eq_iff_fields, opField_packC, rsvField_packC, addrField_packC, maskField_packC, valField_packC]

theorem op_and_ones (x : BitVec 4) : x &&& 15#4 = x := BitVec.and_allOnes

theorem addr_and_ones (x : Addr) : x &&& 63#6 = x := BitVec.and_allOnes

theorem byte_and_ones (x : Byte) : x &&& 255#8 = x := BitVec.and_allOnes

/-- VAL[7:2] are 0 exactly when VAL is its own bits 1:0. -/
theorem byte_and_div (v : Byte) : v &&& 252#8 = 0#8 ↔ v = (v.setWidth 2).setWidth 8 := by
  revert v
  decide

/-- A row selects exactly the words that its command's operands make again: each field of the row's mask is all ones
or all zeros, but for VAL of CALRES. -/
theorem selects_iff_encode {r : OpRow} (hr : r ∈ opRows) (w : Word) :
    r.selects w = true ↔ encode (operands r.mnemonic w) = w := by
  rw [selects_iff_fields]
  simp only [opRows, List.mem_cons, List.not_mem_nil, or_false] at hr
  rcases hr with rfl | rfl | rfl | rfl | rfl | rfl | rfl | rfl
  all_goals
    simp only [operands, encode, packC_eq_iff_fields, divField_eq]
    generalize opField w = op, rsvField w = rsv, addrField w = a, maskField w = m, valField w = v
    simp [opField, rsvField, addrField, maskField, valField, op_and_ones, addr_and_ones, byte_and_ones, byte_and_div]

/-- The mnemonic of a command (R73). -/
def Instr.mnemonic : Instr → Mnemonic
  | .begin => .BEGIN
  | .mshift _ => .MSHIFT
  | .rdf _ _ => .RDF
  | .wrf _ _ _ => .WRF
  | .calrco => .CALRCO
  | .calres _ => .CALRES
  | .rstdef => .RSTDEF
  | .rdenergy => .RDENERGY

/-- The operands of a command stand in its word as they are (R72). -/
theorem operands_encode (i : Instr) : operands i.mnemonic (encode i) = i := by
  cases i with
  | mshift m => rw [Instr.mnemonic, encode, operands, maskField_packC]
  | rdf a m => rw [Instr.mnemonic, encode, operands, addrField_packC, maskField_packC]
  | wrf a m v => rw [Instr.mnemonic, encode, operands, addrField_packC, maskField_packC, valField_packC]
  | calres d =>
    rw [Instr.mnemonic, encode, operands, divField_eq, valField_packC]
    simp
  | _ => rfl

theorem exists_row (k : Mnemonic) : ∃ r ∈ opRows, r.mnemonic = k := by
  cases k <;> decide

/-- A row fixes OP, and no two rows fix the same. -/
theorem opField_of_selects {r : OpRow} (hr : r ∈ opRows) {w : Word} (h : r.selects w = true) :
    opField w = opField r.value := by
  have hop : ∀ r ∈ opRows, opField r.mask = 15#4 := by decide
  rw [← ((selects_iff_fields r w).mp h).1, hop r hr, op_and_ones]

/-- At most one row selects a word (R74). -/
theorem row_unique {r r' : OpRow} (hr : r ∈ opRows) (hr' : r' ∈ opRows) {w : Word} (h : r.selects w = true)
    (h' : r'.selects w = true) : r = r' := by
  have hop : ∀ r ∈ opRows, ∀ r' ∈ opRows, opField r.value = opField r'.value → r = r' := by decide
  exact hop r hr r' hr' ((opField_of_selects hr h).symm.trans (opField_of_selects hr' h'))

/-! ### The decoder (R74) -/

theorem decode_of_selects {r : OpRow} (hr : r ∈ opRows) {w : Word} (h : r.selects w = true) :
    decode w = .ok (operands r.mnemonic w) := by
  rw [decode]
  split
  next r' hfind =>
    rw [row_unique hr (List.mem_of_find?_eq_some hfind) h (List.find?_some (p := fun r : OpRow => r.selects w) hfind)]
  next hfind => exact absurd h (List.find?_eq_none.mp hfind r hr)

theorem decode_of_unselected {w : Word} (h : ∀ r ∈ opRows, r.selects w = false) :
    decode w = .error (illegalReason w) := by
  rw [decode, List.find?_eq_none.mpr fun r hr => by rw [h r hr]; exact Bool.false_ne_true]

/-- A word decodes to a command exactly when it is the command's word. -/
theorem decode_eq_ok_iff {w : Word} {i : Instr} : decode w = .ok i ↔ encode i = w := by
  constructor
  · intro h
    by_cases hsel : ∃ r ∈ opRows, r.selects w = true
    · obtain ⟨r, hr, hw⟩ := hsel
      rw [decode_of_selects hr hw] at h
      cases h
      exact (selects_iff_encode hr w).mp hw
    · rw [decode_of_unselected (by simpa using hsel)] at h
      cases h
  · rintro rfl
    obtain ⟨r, hr, hk⟩ := exists_row i.mnemonic
    have hops : operands r.mnemonic (encode i) = i := hk ▸ operands_encode i
    rw [decode_of_selects hr ((selects_iff_encode hr _).mpr (congrArg encode hops)), hops]

/-! ### Well-formed fields (R75, R78) -/

theorem encode_wellFormed (i : Instr) : (formatC (encode i)).wellFormed = true := by
  cases i with
  | begin => exact Laws.WordWellFormed.begin.1
  | mshift m => exact (Laws.WordWellFormed.mshift m).1
  | rdf a m => exact (Laws.WordWellFormed.rdf a m).1
  | wrf a m v => exact (Laws.WordWellFormed.wrf a m v).1
  | calrco => exact Laws.WordWellFormed.calrco.1
  | calres d => exact (Laws.WordWellFormed.calres d).1
  | rstdef => exact Laws.WordWellFormed.rstdef.1
  | rdenergy => exact Laws.WordWellFormed.rdenergy.1

theorem opAssigned_iff (w : Word) :
    (formatC w).opAssigned = true ↔ 1 ≤ (opField w).toNat ∧ (opField w).toNat ≤ 8 := by
  rw [FormatC.opAssigned, Bool.and_eq_true, decide_eq_true_iff, decide_eq_true_iff, formatC]

theorem rsvZero_iff (w : Word) : (formatC w).rsvZero = true ↔ rsvField w = 0 := by
  simp [FormatC.rsvZero, formatC, ← BitVec.toNat_inj]

/-- ADDR is non-zero in RDF and WRF only. -/
theorem addrFits_iff (w : Word) :
    (formatC w).addrFits = true ↔ (addrField w ≠ 0 → opField w = 3 ∨ opField w = 4) := by
  have ha : (addrField w).toNat < 64 := (addrField w).isLt
  by_cases h : opField w = 3 ∨ opField w = 4
  · rcases h with h | h <;> simp [FormatC.addrFits, formatC, h, ha]
  · simp_all [FormatC.addrFits, formatC, ← BitVec.toNat_inj]

/-- MASK is non-zero in MSHIFT, RDF and WRF only. -/
theorem maskFits_iff (w : Word) :
    (formatC w).maskFits = true ↔ (maskField w ≠ 0 → opField w = 2 ∨ opField w = 3 ∨ opField w = 4) := by
  have hm : (maskField w).toNat < 256 := (maskField w).isLt
  by_cases h : opField w = 2 ∨ opField w = 3 ∨ opField w = 4
  · rcases h with h | h | h <;> simp [FormatC.maskFits, formatC, h, hm]
  · simp_all [FormatC.maskFits, formatC, ← BitVec.toNat_inj]

/-- VAL is non-zero in WRF and CALRES only, where CALRES has two bits of it. -/
theorem valFits_iff (w : Word) :
    (formatC w).valFits = true ↔
      (valField w ≠ 0 → opField w = 4 ∨ opField w = 6) ∧ (opField w = 6 → (valField w).toNat < 4) := by
  have hv : (valField w).toNat < 256 := (valField w).isLt
  by_cases h : opField w = 4 ∨ opField w = 6
  · rcases h with h | h <;> simp [FormatC.valFits, formatC, h, hv]
  · simp_all [FormatC.valFits, formatC, ← BitVec.toNat_inj]

/-- The five checks, with R75's "must be 0" as what a field that is not 0 needs. -/
theorem wellFormed_iff (w : Word) :
    (formatC w).wellFormed = true ↔
      (1 ≤ (opField w).toNat ∧ (opField w).toNat ≤ 8) ∧ rsvField w = 0 ∧
      (addrField w ≠ 0 → opField w = 3 ∨ opField w = 4) ∧
      (maskField w ≠ 0 → opField w = 2 ∨ opField w = 3 ∨ opField w = 4) ∧
      (valField w ≠ 0 → opField w = 4 ∨ opField w = 6) ∧ (opField w = 6 → (valField w).toNat < 4) := by
  simp only [FormatC.wellFormed, Bool.and_eq_true, opAssigned_iff, rsvZero_iff, addrFits_iff, maskFits_iff,
    valFits_iff, and_assoc]

/-- OP of a mnemonic (R73). -/
def Mnemonic.op : Mnemonic → BitVec 4
  | .BEGIN => 1
  | .MSHIFT => 2
  | .RDF => 3
  | .WRF => 4
  | .CALRCO => 5
  | .CALRES => 6
  | .RSTDEF => 7
  | .RDENERGY => 8

theorem exists_mnemonic {op : BitVec 4} (h : 1 ≤ op.toNat) (h' : op.toNat ≤ 8) : ∃ k : Mnemonic, op = k.op := by
  have hop : ∀ op : BitVec 4, 1 ≤ op.toNat → op.toNat ≤ 8 → ∃ r ∈ opRows, op = r.mnemonic.op := by decide
  obtain ⟨r, -, hr⟩ := hop op h h'
  exact ⟨r.mnemonic, hr⟩

theorem setWidth_div_of_lt {v : Byte} (h : v.toNat < 4) : (v.setWidth 2).setWidth 8 = v := by
  apply BitVec.eq_of_toNat_eq
  simp only [BitVec.toNat_setWidth]
  omega

/-- The fields are well formed exactly in the words of the commands: OP names the command, and what it takes no operand
from is 0. -/
theorem wellFormed_iff_encode (w : Word) : (formatC w).wellFormed = true ↔ ∃ i, encode i = w := by
  constructor
  · intro h
    obtain ⟨⟨hlo, hhi⟩, hrsv, ha, hm, hv, hdiv⟩ := (wellFormed_iff w).mp h
    obtain ⟨k, hk⟩ := exists_mnemonic hlo hhi
    refine ⟨operands k w, ?_⟩
    rw [hk] at ha hm hv hdiv
    cases k <;> simp_all [Mnemonic.op, operands, encode, packC_eq_iff_fields, divField_eq, setWidth_div_of_lt]
  · rintro ⟨i, rfl⟩
    exact encode_wellFormed i

end Sys2Proof
end

/-! ## The statements about words -/

section
namespace Sys2Proof.Machine

/-- Settles O2: the row of the command selects its word; every command is well formed. -/
theorem decodeOfEncode : Obligations.DecodeOfEncode :=
  fun _ _ => decode_eq_ok_iff.mpr rfl

/-- Settles O3: a row selects only words that its operands make again (`selects_iff_encode`). -/
theorem encodeOfDecode : Obligations.EncodeOfDecode :=
  fun _ _ => decode_eq_ok_iff.mp

/-- Settles O4: the rows fix different OPs, so the first row that selects a word is the only one. -/
theorem decodeTotalByDisjointRows : Obligations.DecodeTotalByDisjointRows := by
  refine ⟨by decide, fun w => ⟨?_, ?_, ?_⟩⟩
  · exact fun r hr r' hr' => row_unique hr hr'
  · exact fun r hr => decode_of_selects hr
  · exact fun h => ⟨illegalReason w, decode_of_unselected h⟩

theorem divRatio_eq (d : BitVec 2) : divRatio d = 16 * 2 ^ d.toNat := Nat.shiftLeft_eq _ _

/-- Settles O5: a word that decodes is its command's, which has the operands at their places. -/
theorem operandAssembly : Obligations.OperandAssembly := by
  intro w
  refine ⟨fun m h => ?_, fun a m h => ?_, fun a m v h => ?_, fun d h => ⟨?_, divRatio_eq d⟩⟩
  all_goals
    rw [← decode_eq_ok_iff.mp h, encode, packC_toNat]
    bv_omega

/-- Settles O7: both say that the word is a command's. -/
theorem wellFormedFieldsDecode : Obligations.WellFormedFieldsDecode := by
  intro w
  simp only [decode_eq_ok_iff, wellFormed_iff_encode]

/-- A word is ILLEGAL exactly when its fields are not well formed. -/
theorem decode_error_iff (w : Word) : (∃ e, decode w = .error e) ↔ (formatC w).wellFormed = false := by
  rw [← Bool.not_eq_true, wellFormedFieldsDecode w]
  cases decode w <;> simp

/-- A word that is no command leaves everything but STATUS and the trace (R174). -/
theorem illegalWord_eq {s : State} (hp : s.phase = .idle) :
    illegalWord s = { s with trace := [], status := endStatus .illegal s.status } := by
  simp [illegalWord, endCommand, accept, hp]

/-- Settles O6: the conditions are those of `wellFormed_iff` denied, and the step is `illegalWord`. -/
theorem illegalWords : Obligations.IllegalWords := by
  refine ⟨fun w => ?_, fun w e s ws hd hp hr hw => ?_⟩
  · rw [decode_error_iff, ← Bool.not_eq_true, wellFormed_iff]
    grind
  · rw [step_illegal hp hr hw hd, illegalWord_eq (s := { s with hostPort := ws }) hp]

/-- Settles O1: sixteen fixed words, computed. -/
theorem specWordsDecode : Obligations.SpecWordsDecode := by
  unfold Obligations.SpecWordsDecode
  decide

/-- Settles O11: two of the jobs of a step. -/
theorem stepRunsDecodedCommand : Obligations.StepRunsDecodedCommand :=
  fun _ hp hr => ⟨fun _ _ _ => step_take hp hr, step_nothing hp hr⟩

end Sys2Proof.Machine
end

/-! ## The assembler (R78, R79) -/

section
namespace Sys2Proof.Machine

/-! ### Operands -/

/-- Names that the assembler can tell apart: none is written twice with different values, and none is a numeral. -/
def Symbols.legal (syms : Symbols) : Bool :=
  syms.all fun p => syms.find? (fun q => q.1 == p.1) == some p && numeral p.1 == none

/-- The value of an operand is the number its numeral writes, or the value of the name it is. -/
theorem operandValue_eq_some {syms : Symbols} (hs : syms.legal = true) {t : Text} {v : Nat} :
    operandValue syms t = some v ↔ numeral t = some v ∨ (t, v) ∈ syms := by
  simp only [Symbols.legal, List.all_eq_true, Bool.and_eq_true, beq_iff_eq] at hs
  rw [operandValue]
  cases hfind : syms.find? (fun q => q.1 == t) with
  | some p =>
    have hp : p.1 = t := by simpa using List.find?_some hfind
    subst hp
    obtain ⟨-, hnum⟩ := hs p (List.mem_of_find?_eq_some hfind)
    constructor
    · rintro ⟨⟩
      exact .inr (List.mem_of_find?_eq_some hfind)
    · rintro (h | h)
      · simp [hnum] at h
      · have hfind' := (hs _ h).1
        rw [hfind] at hfind'
        rw [Option.some.inj hfind']
  | none =>
    have : (t, v) ∉ syms := fun h => by simpa using List.find?_eq_none.mp hfind _ h
    simp [this]

theorem operandIn_eq_some_of_legal {n : Nat} {syms : Symbols} (hs : syms.legal = true) {t : Text} {b : BitVec n} :
    operandIn n syms t = some b ↔ numeral t = some b.toNat ∨ (t, b.toNat) ∈ syms := by
  simp only [operandIn, Option.bind_eq_some_iff, fits_eq_some, operandValue_eq_some hs]
  constructor
  · rintro ⟨v, h, -, rfl⟩; exact h
  · intro h; exact ⟨_, h, b.isLt, rfl⟩

/-- A number that fits n bits is the number of an n-bit value. -/
theorem exists_toNat_eq {n x : Nat} (h : x < 2 ^ n) : ∃ b : BitVec n, b.toNat = x := ⟨.ofNatLT x h, rfl⟩

/-! ### The operands each command takes (R78) -/

variable {ops : List Text} {i : Instr}

theorem assembleCore_mshift : assembleCore .MSHIFT ops = some i ↔
    ∃ t, ops = [t] ∧ ∃ m : Byte, numeral t = some m.toNat ∧ .mshift m = i := by
  rcases ops with _ | ⟨t, _ | ⟨_, _⟩⟩ <;> simp [assembleCore, operandIn_eq_some]

theorem assembleCore_rdf : assembleCore .RDF ops = some i ↔
    ∃ t u, ops = [t, u] ∧ ∃ (a : Addr) (m : Byte), numeral t = some a.toNat ∧ numeral u = some m.toNat ∧
      .rdf a m = i := by
  rcases ops with _ | ⟨t, _ | ⟨u, _ | ⟨_, _⟩⟩⟩ <;>
    simp [assembleCore, operandIn_eq_some, Option.bind_eq_some_iff, and_assoc]

theorem assembleCore_wrf : assembleCore .WRF ops = some i ↔
    ∃ t u x, ops = [t, u, x] ∧ ∃ (a : Addr) (m v : Byte), numeral t = some a.toNat ∧ numeral u = some m.toNat ∧
      numeral x = some v.toNat ∧ .wrf a m v = i := by
  rcases ops with _ | ⟨t, _ | ⟨u, _ | ⟨x, _ | ⟨_, _⟩⟩⟩⟩ <;>
    simp [assembleCore, operandIn_eq_some, Option.bind_eq_some_iff, and_assoc]

theorem assembleCore_calres : assembleCore .CALRES ops = some i ↔
    ∃ t, ops = [t] ∧ ∃ d : BitVec 2, (numeral t = some d.toNat ∨ (t, d.toNat) ∈ divSymbols) ∧ .calres d = i := by
  have hlegal : divSymbols.legal = true := by decide
  rcases ops with _ | ⟨t, _ | ⟨_, _⟩⟩ <;> simp [assembleCore, operandIn_eq_some_of_legal hlegal]

/-- A command without operands takes none. -/
theorem assembleCore_bare {k : Mnemonic} {j : Instr} (hnil : assembleCore k [] = some j)
    (hcons : ∀ t ts, assembleCore k (t :: ts) = none) : assembleCore k ops = some i ↔ ops = [] ∧ j = i := by
  cases ops with
  | nil => simp [hnil]
  | cons t ts => simp [hcons]

/-! ### The pseudo-instructions of R79 -/

theorem expand_read {r : PseudoRow} (h : r.access = .read) :
    r.expand ops = some i ↔ ops = [] ∧ .rdf r.field.addr r.field.mask = i := by
  cases ops <;> simp [PseudoRow.expand, h]

theorem expand_write {r : PseudoRow} {allowed : List Nat} {syms : Symbols} (h : r.access = .write allowed syms)
    (hs : syms.legal = true) :
    r.expand ops = some i ↔ ∃ t, ops = [t] ∧ ∃ v, (numeral t = some v ∨ (t, v) ∈ syms) ∧ v ∈ allowed ∧
      .wrf r.field.addr r.field.mask (BitVec.ofNat 8 v) = i := by
  rcases ops with _ | ⟨t, _ | ⟨_, _⟩⟩
  · simp [PseudoRow.expand, h]
  · simp only [PseudoRow.expand, h, ← operandValue_eq_some hs, List.cons.injEq, and_true, exists_eq_left']
    cases operandValue syms t <;> simp
  · simp [PseudoRow.expand, h]

/-- The names of a row are legal, and the values it accepts fit VAL. -/
def Access.legal : Access → Bool
  | .read => true
  | .write allowed syms => syms.legal && allowed.all (· < 256)

theorem pseudoRows_legal : ∀ p ∈ pseudoRows, p.access.legal = true := by decide

theorem pseudoRows_named : ∀ p ∈ pseudoRows, p.name ≠ [] := by decide

/-! ### Lines -/

/-- A command's lines, from the operands it takes. -/
theorem assemblesBy_core {k : Mnemonic} {accepts : List Text → Nat → Prop}
    (ha : ∀ ops n, accepts ops n ↔ ∃ i, assembleCore k ops = some i ∧ (encode i).toNat = n) :
    assemblesBy (spelling k) accepts := by
  obtain ⟨r, hr, rfl⟩ := exists_row k
  have hne : ∀ r ∈ opRows, spelling r.mnemonic ≠ [] := by decide
  exact assemblesBy_of (hne r hr) _ (assembleCode_core hr) ha

theorem assemblesBy_pseudo {p : PseudoRow} (hp : p ∈ pseudoRows) {accepts : List Text → Nat → Prop}
    (ha : ∀ ops n, accepts ops n ↔ ∃ i, p.expand ops = some i ∧ (encode i).toNat = n) :
    assemblesBy p.name accepts :=
  assemblesBy_of (pseudoRows_named p hp) _ (assembleCode_pseudo hp) ha

/-- A command without operands has one line. -/
theorem assemblesBy_bare (k : Mnemonic) {j : Instr} (hnil : assembleCore k [] = some j)
    (hcons : ∀ t ts, assembleCore k (t :: ts) = none) :
    assemblesBy (spelling k) fun ops n => ops = [] ∧ n = (encode j).toNat :=
  assemblesBy_core fun ops n => by simp [assembleCore_bare hnil hcons, and_assoc, eq_comm]

theorem encode_mshift_toNat (m : Byte) : (encode (.mshift m)).toNat = 0x20000000 + m.toNat * 2 ^ 8 :=
  packC_toNat 2 0 m 0

theorem encode_rdf_toNat (a : Addr) (m : Byte) :
    (encode (.rdf a m)).toNat = 0x30000000 + a.toNat * 2 ^ 16 + m.toNat * 2 ^ 8 := packC_toNat 3 a m 0

theorem encode_wrf_toNat (a : Addr) (m v : Byte) :
    (encode (.wrf a m v)).toNat = 0x40000000 + a.toNat * 2 ^ 16 + m.toNat * 2 ^ 8 + v.toNat := packC_toNat 4 a m v

theorem encode_calres_toNat (d : BitVec 2) : (encode (.calres d)).toNat = 0x60000000 + d.toNat := by
  rw [encode, packC_toNat, BitVec.toNat_setWidth_of_le (by decide)]
  rfl

theorem assemblesBy_mshift : assemblesBy (spelling .MSHIFT) fun ops n =>
    ∃ m x, ops = [m] ∧ numeral m = some x ∧ x < 256 ∧ n = 0x20000000 + x * 2 ^ 8 := by
  refine assemblesBy_core fun ops n => ⟨?_, ?_⟩
  · rintro ⟨t, x, rfl, ht, hx, rfl⟩
    obtain ⟨m, rfl⟩ := exists_toNat_eq (n := 8) hx
    exact ⟨.mshift m, assembleCore_mshift.mpr ⟨t, rfl, _, ht, rfl⟩, encode_mshift_toNat _⟩
  · rintro ⟨i, hi, rfl⟩
    obtain ⟨t, rfl, m, ht, rfl⟩ := assembleCore_mshift.mp hi
    exact ⟨t, _, rfl, ht, m.isLt, encode_mshift_toNat m⟩

theorem assemblesBy_rdf : assemblesBy (spelling .RDF) fun ops n =>
    ∃ a m x y, ops = [a, m] ∧ numeral a = some x ∧ x < 64 ∧ numeral m = some y ∧ y < 256 ∧
      n = 0x30000000 + x * 2 ^ 16 + y * 2 ^ 8 := by
  refine assemblesBy_core fun ops n => ⟨?_, ?_⟩
  · rintro ⟨t, u, x, y, rfl, ht, hx, hu, hy, rfl⟩
    obtain ⟨a, rfl⟩ := exists_toNat_eq (n := 6) hx
    obtain ⟨m, rfl⟩ := exists_toNat_eq (n := 8) hy
    exact ⟨.rdf a m, assembleCore_rdf.mpr ⟨t, u, rfl, _, _, ht, hu, rfl⟩, encode_rdf_toNat _ _⟩
  · rintro ⟨i, hi, rfl⟩
    obtain ⟨t, u, rfl, a, m, ht, hu, rfl⟩ := assembleCore_rdf.mp hi
    exact ⟨t, u, _, _, rfl, ht, a.isLt, hu, m.isLt, encode_rdf_toNat a m⟩

theorem assemblesBy_wrf : assemblesBy (spelling .WRF) fun ops n =>
    ∃ a m v x y z, ops = [a, m, v] ∧ numeral a = some x ∧ x < 64 ∧ numeral m = some y ∧ y < 256 ∧
      numeral v = some z ∧ z < 256 ∧ n = 0x40000000 + x * 2 ^ 16 + y * 2 ^ 8 + z := by
  refine assemblesBy_core fun ops n => ⟨?_, ?_⟩
  · rintro ⟨t, u, w, x, y, z, rfl, ht, hx, hu, hy, hw, hz, rfl⟩
    obtain ⟨a, rfl⟩ := exists_toNat_eq (n := 6) hx
    obtain ⟨m, rfl⟩ := exists_toNat_eq (n := 8) hy
    obtain ⟨v, rfl⟩ := exists_toNat_eq (n := 8) hz
    exact ⟨.wrf a m v,
      assembleCore_wrf.mpr ⟨t, u, w, rfl, _, _, _, ht, hu, hw, rfl⟩, encode_wrf_toNat _ _ _⟩
  · rintro ⟨i, hi, rfl⟩
    obtain ⟨t, u, w, rfl, a, m, v, ht, hu, hw, rfl⟩ := assembleCore_wrf.mp hi
    exact ⟨t, u, w, _, _, _, rfl, ht, a.isLt, hu, m.isLt, hw, v.isLt, encode_wrf_toNat a m v⟩

theorem mem_divSymbols {t : Text} {x : Nat} : (t, x) ∈ divSymbols ↔
    t = "DIV16".toList ∧ x = 0 ∨ t = "DIV32".toList ∧ x = 1 ∨ t = "DIV64".toList ∧ x = 2 ∨
      t = "DIV128".toList ∧ x = 3 := by
  simp only [divSymbols, List.mem_cons, List.not_mem_nil, or_false, Prod.mk.injEq]

theorem assemblesBy_calres : assemblesBy (spelling .CALRES) fun ops n =>
    ∃ d x, ops = [d] ∧
      (numeral d = some x ∨ d = "DIV16".toList ∧ x = 0 ∨ d = "DIV32".toList ∧ x = 1 ∨
        d = "DIV64".toList ∧ x = 2 ∨ d = "DIV128".toList ∧ x = 3) ∧
      x < 4 ∧ n = 0x60000000 + x := by
  simp only [← mem_divSymbols]
  refine assemblesBy_core fun ops n => ⟨?_, ?_⟩
  · rintro ⟨t, x, rfl, ht, hx, rfl⟩
    obtain ⟨d, rfl⟩ := exists_toNat_eq (n := 2) hx
    exact ⟨.calres d, assembleCore_calres.mpr ⟨t, rfl, _, ht, rfl⟩, encode_calres_toNat _⟩
  · rintro ⟨i, hi, rfl⟩
    obtain ⟨t, rfl, d, ht, rfl⟩ := assembleCore_calres.mp hi
    exact ⟨t, _, rfl, ht, d.isLt, encode_calres_toNat d⟩

/-- A pseudo-instruction that reads has one line (R79). -/
theorem assemblesBy_read {p : PseudoRow} (hp : p ∈ pseudoRows) (h : p.access = .read) :
    assemblesBy p.name fun ops n =>
      ops = [] ∧ n = 0x30000000 + p.field.addr.toNat * 2 ^ 16 + p.field.mask.toNat * 2 ^ 8 :=
  assemblesBy_pseudo hp fun ops n => by simp [expand_read h, encode_rdf_toNat, and_assoc, eq_comm]

/-- A pseudo-instruction that writes takes one operand, of the values its row accepts (R79). -/
theorem assemblesBy_write {p : PseudoRow} (hp : p ∈ pseudoRows) {allowed : List Nat} {syms : Symbols}
    (h : p.access = .write allowed syms) :
    assemblesBy p.name fun ops n =>
      ∃ o x, ops = [o] ∧ (numeral o = some x ∨ (o, x) ∈ syms) ∧ x ∈ allowed ∧
        n = 0x40000000 + p.field.addr.toNat * 2 ^ 16 + p.field.mask.toNat * 2 ^ 8 + x := by
  have hlegal := pseudoRows_legal p hp
  rw [h, Access.legal, Bool.and_eq_true, List.all_eq_true] at hlegal
  obtain ⟨hsyms, hfit⟩ := hlegal
  have hval {x : Nat} (hx : x ∈ allowed) : (BitVec.ofNat 8 x).toNat = x :=
    Nat.mod_eq_of_lt (of_decide_eq_true (hfit x hx))
  refine assemblesBy_pseudo hp fun ops n => ⟨?_, ?_⟩
  · rintro ⟨t, x, rfl, ht, hx, rfl⟩
    exact ⟨_, (expand_write h hsyms).mpr ⟨t, rfl, x, ht, hx, rfl⟩, by rw [encode_wrf_toNat, hval hx]⟩
  · rintro ⟨i, hi, rfl⟩
    obtain ⟨t, rfl, x, ht, hx, rfl⟩ := (expand_write h hsyms).mp hi
    exact ⟨t, x, rfl, ht, hx, by rw [encode_wrf_toNat, hval hx]⟩

/-- Settles O9: mnemonic by mnemonic. -/
theorem assemblerNeverTruncates : Obligations.AssemblerNeverTruncates :=
  ⟨assemblesBy_bare .BEGIN rfl fun _ _ => rfl, assemblesBy_mshift, assemblesBy_rdf, assemblesBy_wrf,
    assemblesBy_bare .CALRCO rfl fun _ _ => rfl, assemblesBy_calres, assemblesBy_bare .RSTDEF rfl fun _ _ => rfl,
    assemblesBy_bare .RDENERGY rfl fun _ _ => rfl,
    fun _ hp => ⟨assemblesBy_read hp, fun _ _ => assemblesBy_write hp⟩⟩

end Sys2Proof.Machine
end

/-! ## The disassembler (R80) -/

section
namespace Sys2Proof.Machine

/-! ### The parts of a printed line -/

/-- A character that ends no part of a line: no blank, comma or semicolon. -/
def solidChar (c : Char) : Bool := !isBlank c && c != ',' && c != ';'

/-- A mnemonic or an operand as it is printed. -/
def solid (t : Text) : Bool := !t.isEmpty && t.all solidChar

/-- Operands as they are printed. -/
def printOperands : List Text → Text
  | [] => []
  | [t] => t
  | t :: u :: ts => t ++ ',' :: ' ' :: printOperands (u :: ts)

/-- A text without comment and without blanks at its ends. -/
structure Trimmed (t : Text) : Prop where
  first : ∃ c ∈ t.head?, isBlank c = false
  last : ∃ c ∈ t.getLast?, isBlank c = false
  noComment : ∀ c ∈ t, c ≠ ';'

theorem solidChar_iff {c : Char} : solidChar c = true ↔ isBlank c = false ∧ c ≠ ',' ∧ c ≠ ';' := by
  simp [solidChar, and_assoc]

theorem solid_iff {t : Text} : solid t = true ↔ t ≠ [] ∧ ∀ c ∈ t, isBlank c = false ∧ c ≠ ',' ∧ c ≠ ';' := by
  simp [solid, solidChar_iff]

theorem notBlank_of_solid {t : Text} (h : solid t = true) : ∀ c ∈ t, (!isBlank c) = true := fun c hc => by
  rw [((solid_iff.mp h).2 c hc).1, Bool.not_false]

theorem noComma_of_solid {t : Text} (h : solid t = true) : ∀ c ∈ t, c ≠ ',' :=
  fun c hc => ((solid_iff.mp h).2 c hc).2.1

theorem trimmed_of_solid {t : Text} (h : solid t = true) : Trimmed t := by
  obtain ⟨hne, hc⟩ := solid_iff.mp h
  refine ⟨⟨t.head hne, List.head?_eq_some_head hne, ?_⟩, ⟨t.getLast hne, List.getLast?_eq_some_getLast hne, ?_⟩, ?_⟩
  · exact (hc _ (List.head_mem hne)).1
  · exact (hc _ (List.getLast_mem hne)).1
  · exact fun c h => (hc c h).2.2

/-- Parts put together are trimmed when the first and the last are. -/
theorem Trimmed.append {s m t : Text} (hs : Trimmed s) (ht : Trimmed t) (hm : ∀ c ∈ m, c ≠ ';') :
    Trimmed (s ++ (m ++ t)) := by
  obtain ⟨⟨a, ha, ha'⟩, -, hsc⟩ := hs
  obtain ⟨-, ⟨b, hb, hb'⟩, htc⟩ := ht
  rw [Option.mem_def] at ha hb
  refine ⟨⟨a, by simp [ha], ha'⟩, ⟨b, by simp [hb], hb'⟩, ?_⟩
  simp only [List.mem_append]
  rintro c (h | h | h)
  exacts [hsc c h, hm c h, htc c h]

theorem dropWhile_of_head {p : Char → Bool} {t : Text} (h : ∃ c ∈ t.head?, p c = false) : t.dropWhile p = t := by
  obtain ⟨c, hc, hp⟩ := h
  cases t with
  | nil => rfl
  | cons d ds =>
    obtain rfl : d = c := by simpa using hc
    simp [hp]

theorem Trimmed.trim_eq {t : Text} (h : Trimmed t) : trim t = t := by
  have hlast : ∃ c ∈ t.reverse.head?, isBlank c = false := by rw [List.head?_reverse]; exact h.last
  rw [trim, dropWhile_of_head h.first, dropWhile_of_head hlast, List.reverse_reverse]

theorem trim_space (t : Text) : trim (' ' :: t) = trim t := rfl

theorem Trimmed.code_eq {t : Text} (h : Trimmed t) : code t = t := by
  have hall : t.takeWhile (· != ';') = t := by simpa using h.noComment
  rw [code, hall, h.trim_eq]

/-! ### Cutting a printed line -/

theorem splitCommas_append_comma {t : Text} (h : ∀ c ∈ t, c ≠ ',') (u : Text) :
    splitCommas (t ++ ',' :: u) = t :: splitCommas u := by
  induction t with
  | nil => simp [splitCommas]
  | cons c cs ih =>
    obtain ⟨hc, hcs⟩ := List.forall_mem_cons.mp h
    simp [splitCommas, hc, ih hcs]

theorem splitCommas_of_noComma {t : Text} (h : ∀ c ∈ t, c ≠ ',') : splitCommas t = [t] := by
  induction t with
  | nil => rfl
  | cons c cs ih =>
    obtain ⟨hc, hcs⟩ := List.forall_mem_cons.mp h
    simp [splitCommas, hc, ih hcs]

/-- A blank before the operands is trimmed away. -/
theorem map_trim_splitCommas_space (t : Text) :
    (splitCommas (' ' :: t)).map trim = (splitCommas t).map trim := by
  have hne : splitCommas t ≠ [] := by
    fun_cases splitCommas t <;> simp
  rw [splitCommas, if_neg (by decide)]
  cases hs : splitCommas t with
  | nil => exact absurd hs hne
  | cons u us => simp [trim_space]

theorem trimmed_printOperands {t : Text} {ts : List Text} (h : ∀ x ∈ t :: ts, solid x = true) :
    Trimmed (printOperands (t :: ts)) := by
  induction ts generalizing t with
  | nil => exact trimmed_of_solid (h t (by simp))
  | cons u us ih =>
    obtain ⟨ht, hus⟩ := List.forall_mem_cons.mp h
    exact (trimmed_of_solid ht).append (m := [',', ' ']) (ih hus) (by simp)

/-- Printed operands are cut into the operands they were printed from. -/
theorem splitCommas_printOperands {t : Text} {ts : List Text} (h : ∀ x ∈ t :: ts, solid x = true) :
    (splitCommas (printOperands (t :: ts))).map trim = t :: ts := by
  induction ts generalizing t with
  | nil =>
    have ht := h t (by simp)
    rw [printOperands, splitCommas_of_noComma (noComma_of_solid ht), List.map_singleton,
      (trimmed_of_solid ht).trim_eq]
  | cons u us ih =>
    obtain ⟨ht, hus⟩ := List.forall_mem_cons.mp h
    rw [printOperands, splitCommas_append_comma (noComma_of_solid ht), List.map_cons,
      map_trim_splitCommas_space, ih hus, (trimmed_of_solid ht).trim_eq]

section line

variable {k : Text} (hk : solid k = true)
include hk

theorem mnemonicOf_append_space (u : Text) : mnemonicOf (k ++ ' ' :: u) = k := by
  rw [mnemonicOf, List.takeWhile_append_of_pos (notBlank_of_solid hk), List.takeWhile_cons_of_neg (by decide),
    List.append_nil]

theorem operandsOf_append_space {u : Text} (hu : Trimmed u) :
    operandsOf (k ++ ' ' :: u) = (splitCommas u).map trim := by
  have htrim : trim ((k ++ ' ' :: u).dropWhile fun c => !isBlank c) = u := by
    rw [List.dropWhile_append_of_pos (notBlank_of_solid hk), List.dropWhile_cons_of_neg (by decide), trim_space,
      hu.trim_eq]
  rw [operandsOf, htrim]
  cases u with
  | nil => simpa using hu.first
  | cons c cs => rfl

theorem code_append_space {u : Text} (hu : Trimmed u) : code (k ++ ' ' :: u) = k ++ ' ' :: u :=
  ((trimmed_of_solid hk).append (m := [' ']) hu (by simp)).code_eq

end line

/-- A mnemonic and printed operands assemble to the command of the mnemonic with these operands. -/
theorem assembleLine_printed {k : Mnemonic} {t : Text} {ts : List Text} {i : Instr}
    (h : ∀ x ∈ t :: ts, solid x = true) (hi : assembleCore k (t :: ts) = some i) :
    assembleLine (spelling k ++ ' ' :: printOperands (t :: ts)) = .word (encode i) := by
  obtain ⟨r, hr, rfl⟩ := exists_row k
  have hspell : ∀ r ∈ opRows, solid (spelling r.mnemonic) = true := by decide
  have hk := hspell r hr
  have hu := trimmed_printOperands h
  have hcode := code_append_space hk hu
  have hmnem := mnemonicOf_append_space hk (printOperands (t :: ts))
  refine assembleLine_some (by rw [hcode, hmnem]) (solid_iff.mp hk).1 ?_
  rw [hcode, assembleCode_core hr _ hmnem, operandsOf_append_space hk hu, splitCommas_printOperands h, hi]

/-! ### The printed operands -/

theorem digitValue_hexDigit {n : Nat} (h : n < 16) : digitValue (hexDigit n) = n := by
  revert n; decide

theorem solidChar_hexDigit {n : Nat} (h : n < 16) : solidChar (hexDigit n) = true := by
  revert n; decide

theorem solid_hexByte {v : Nat} (h : v < 256) : solid (hexByte v) = true := by
  have hx : solidChar 'x' = true := by decide
  have h0 : solidChar '0' = true := by decide
  simp [solid, hexByte, hx, h0, solidChar_hexDigit (show v / 16 < 16 by omega),
    solidChar_hexDigit (show v % 16 < 16 by omega)]

/-- A two-digit hexadecimal numeral writes its byte. -/
theorem numeral_hexByte {v : Nat} (h : v < 256) : numeral (hexByte v) = some v := by
  have hhi : v / 16 < 16 := by omega
  have hlo : v % 16 < 16 := by omega
  have hnum : numeral (hexByte v) = digits 16 0 [hexDigit (v / 16), hexDigit (v % 16)] := rfl
  simp only [hnum, digits, digitValue_hexDigit hhi, digitValue_hexDigit hlo, if_pos hhi, if_pos hlo]
  rw [Nat.zero_mul, Nat.zero_add, Nat.div_add_mod']

theorem disassemble_mshift (m : Byte) :
    disassemble (.mshift m) = spelling .MSHIFT ++ ' ' :: printOperands [hexByte m.toNat] := rfl

theorem disassemble_rdf (a : Addr) (m : Byte) :
    disassemble (.rdf a m) = spelling .RDF ++ ' ' :: printOperands [hexByte a.toNat, hexByte m.toNat] := rfl

theorem disassemble_wrf (a : Addr) (m v : Byte) :
    disassemble (.wrf a m v) =
      spelling .WRF ++ ' ' :: printOperands [hexByte a.toNat, hexByte m.toNat, hexByte v.toNat] := rfl

theorem disassemble_calres (d : BitVec 2) :
    disassemble (.calres d) = spelling .CALRES ++ ' ' :: printOperands [hexByte d.toNat] := rfl

/-- Settles O8: the printed operands are read back as they are. -/
theorem assembleOfDisassemble : Obligations.AssembleOfDisassemble := by
  intro i
  cases i with
  | mshift m =>
    rw [disassemble_mshift, assembleLine_printed (by simp [solid_hexByte m.isLt])]
    exact assembleCore_mshift.mpr ⟨_, rfl, m, numeral_hexByte m.isLt, rfl⟩
  | rdf a m =>
    have ha : a.toNat < 256 := by omega
    rw [disassemble_rdf, assembleLine_printed (by simp [solid_hexByte ha, solid_hexByte m.isLt])]
    exact assembleCore_rdf.mpr ⟨_, _, rfl, a, m, numeral_hexByte ha, numeral_hexByte m.isLt, rfl⟩
  | wrf a m v =>
    have ha : a.toNat < 256 := by omega
    rw [disassemble_wrf, assembleLine_printed (by simp [solid_hexByte ha, solid_hexByte m.isLt, solid_hexByte v.isLt])]
    exact assembleCore_wrf.mpr
      ⟨_, _, _, rfl, a, m, v, numeral_hexByte ha, numeral_hexByte m.isLt, numeral_hexByte v.isLt, rfl⟩
  | calres d =>
    have hd : d.toNat < 256 := by omega
    rw [disassemble_calres, assembleLine_printed (by simp [solid_hexByte hd])]
    exact assembleCore_calres.mpr ⟨_, rfl, d, .inl (numeral_hexByte hd), rfl⟩
  | _ => rfl

end Sys2Proof.Machine
end

/-! ## Proofs of the family 40_transport.md: BEGIN -/

section
namespace Sys2Proof.Machine

/-! ### The configuration check (R90, R91, R93) -/

theorem configOk_spi {c : Config} (h : c.xportSel = .spi) : configOk c = true := by rw [configOk, h]

/-- A BUS_ADDR below 4 is its own two low bits, so the check compares numbers. -/
theorem configOk_i2c_iff {c : Config} (h : c.xportSel = .i2c) :
    configOk c = true ↔ c.busAddr.toNat < 4 ∧ c.busAddr.toNat ≠ c.i2cRefused.toNat := by
  have hlow (hlt : c.busAddr.toNat < 4) : (c.busAddr.setWidth 2).toNat = c.busAddr.toNat := by
    rw [BitVec.toNat_setWidth]; exact Nat.mod_eq_of_lt hlt
  rw [configOk, h]
  simp only [subaddrOk, Bool.and_eq_true, decide_eq_true_eq]
  exact and_congr_right fun hlt => by rw [Ne, BitVec.toNat_eq, hlow hlt]

/-! ### What BEGIN leaves (R90, R92) -/

/-- The code BEGIN ends with. -/
def beginCode (c : Config) : Code := if configOk c then .ok else .configError

/-- The state after BEGIN: INIT is the verdict of the check, STATUS its code, and no event stands in the trace. -/
def afterBegin (s : State) : State :=
  { s with init := configOk s.config, trace := [], status := endStatus (beginCode s.config) s.status, phase := .idle }

theorem exec_begin (s : State) : exec .begin s = .next (afterBegin s) := by
  rw [exec, execBegin, afterBegin, beginCode]
  cases configOk s.config with
  | true => rfl
  | false => rfl

theorem exec_begin_configOk {s : State} (h : configOk s.config = true) :
    exec .begin s =
      .next { s with init := true, trace := [], status := endStatus .ok s.status, phase := .idle } := by
  rw [exec_begin, afterBegin, beginCode, h, if_pos rfl]

theorem exec_begin_configError {s : State} (h : ¬ configOk s.config = true) :
    exec .begin s =
      .next { s with init := false, trace := [], status := endStatus .configError s.status, phase := .idle } := by
  rw [exec_begin, afterBegin, beginCode, if_neg h, Bool.eq_false_of_not_eq_true h]

/-- Settles O28: the verdict is that of the check, which under SPI cannot fail. -/
theorem beginMeaning : Obligations.BeginMeaning :=
  ⟨rfl, fun _ =>
    ⟨fun hi2c haddr => exec_begin_configError fun hok => haddr ((configOk_i2c_iff hi2c).mp hok),
      fun hi2c haddr => exec_begin_configOk ((configOk_i2c_iff hi2c).mpr haddr),
      fun hspi => exec_begin_configOk (configOk_spi hspi)⟩⟩

/-! ### BEGIN again (R94) -/

/-- Ending twice with one code leaves STATUS as ending once does. -/
theorem endStatus_endStatus (c : Code) (st : Byte) : endStatus c (endStatus c st) = endStatus c st := by
  revert st; cases c <;> decide

theorem afterBegin_afterBegin (s : State) : afterBegin (afterBegin s) = afterBegin s := by
  simp [afterBegin, endStatus_endStatus]

/-- Settles O29: INIT and CODE are read off the configuration, which BEGIN keeps. -/
theorem beginIdempotent : Obligations.BeginIdempotent := by
  intro s s' hconfig
  have hcode : statusCode (afterBegin s).status = statusCode (afterBegin s').status := by
    simp only [afterBegin, endStatus_code, hconfig]
  have hsticky (h : statusSticky s.status = true) : statusSticky (afterBegin s).status = true := by
    simp only [afterBegin, endStatus_sticky, h, Bool.true_or]
  have hagain : exec .begin (afterBegin s) = .next (afterBegin s) := by rw [exec_begin, afterBegin_afterBegin]
  exact ⟨afterBegin s, afterBegin s', exec_begin s, exec_begin s', congrArg configOk hconfig, hcode, hagain,
    rfl, rfl, rfl, rfl, rfl, hsticky⟩

/-! ### The three sub-addresses that pass (R91) -/

/-- The 2-bit values other than r are the next three after it, around the circle. -/
theorem subaddr_iff_offset (r : BitVec 2) (b : Byte) :
    b.toNat < 4 ∧ b.toNat ≠ r.toNat ↔
      b = (r + 1).setWidth 8 ∨ b = (r + 2).setWidth 8 ∨ b = (r + 3).setWidth 8 := by
  bv_omega

theorem subaddr_offsets_distinct (r : BitVec 2) :
    (r + 1).setWidth 8 ≠ (r + 2).setWidth 8 ∧ (r + 1).setWidth 8 ≠ (r + 3).setWidth 8 ∧
      (r + 2).setWidth 8 ≠ (r + 3).setWidth 8 := by
  bv_omega

theorem setWidth_subaddr_lt (r : BitVec 2) : (r.setWidth 8).toNat < 4 := by bv_omega

/-- Settles O30: with r refused, r + 1, r + 2 and r + 3 pass. -/
theorem threeSubaddressesPass : Obligations.ThreeSubaddressesPass := by
  intro c hi2c
  obtain ⟨h12, h13, h23⟩ := subaddr_offsets_distinct c.i2cRefused
  refine ⟨_, _, _, h12, h13, h23, setWidth_subaddr_lt _, setWidth_subaddr_lt _, setWidth_subaddr_lt _, fun b => ?_⟩
  calc configOk { c with busAddr := b } = true
    _ ↔ b.toNat < 4 ∧ b.toNat ≠ c.i2cRefused.toNat := configOk_i2c_iff hi2c
    _ ↔ _ := subaddr_iff_offset c.i2cRefused b

end Sys2Proof.Machine
end

/-! ## Proofs of the family 41_bitfield.md: the masked bitfield functions -/

section
namespace Sys2Proof.Machine

/-! ### maskShift (R100) -/

/-- The priority encoder stops at a bit that is set; if it finds none, the mask is 0. -/
theorem getLsbD_maskShift {m : Byte} (h : m ≠ 0) : m.getLsbD (maskShift m).toNat = true := by
  unfold maskShift
  split_ifs with h0 h1 h2 h3 h4 h5 h6 h7
  case neg =>
    refine absurd (BitVec.eq_of_getLsbD_eq fun k hk => ?_) h
    interval_cases k <;> simp_all
  all_goals assumption

/-- The priority encoder has passed over every bit below the one it stops at. -/
theorem getLsbD_of_lt_maskShift {m : Byte} {k : Nat} (hk : k < (maskShift m).toNat) : m.getLsbD k = false := by
  unfold maskShift at hk
  split_ifs at hk
  all_goals
    simp only [BitVec.ofNat_eq_ofNat, BitVec.toNat_ofNat] at hk
    interval_cases k <;> simp_all

/-- Settles O33: where the encoder stops, and what it has passed over. -/
theorem maskShiftIsLowestSetBit : Obligations.MaskShiftIsLowestSetBit :=
  ⟨rfl, fun _ h => ⟨getLsbD_maskShift h, fun _ => getLsbD_of_lt_maskShift⟩⟩

theorem maskShift_le (m : Byte) : (maskShift m).toNat ≤ 7 := Nat.le_of_lt_succ (maskShift m).isLt

@[simp] theorem maskShift_ones : maskShift 255#8 = 0 := rfl

/-! ### The value of a field (R101) -/

theorem extractField_zero (b : Byte) : extractField 0 b = 0 := by simp [extractField]

/-- Mask 0xFF is the whole byte. -/
theorem extractField_ones (b : Byte) : extractField 0xFF b = b := by simp [extractField, byte_and_ones]

theorem extractField_lt (m b : Byte) : (extractField m b).toNat < 2 ^ (8 - (maskShift m).toNat) := by
  rw [extractField, BitVec.toNat_ushiftRight, Nat.shiftRight_eq_div_pow]
  refine Nat.div_lt_of_lt_mul ?_
  rw [← Nat.pow_add, Nat.add_sub_of_le (Nat.le_succ_of_le (maskShift_le m))]
  exact (b &&& m).isLt

/-- A field's value has a 1 only where the shifted mask has one. -/
theorem extractField_and_not_mask (m b : Byte) : extractField m b &&& ~~~(m >>> (maskShift m).toNat) = 0 := by
  rw [extractField, BitVec.ushiftRight_and_distrib, BitVec.and_assoc, BitVec.and_not_self]
  exact BitVec.and_zero

/-! ### The byte with a field written (R102, R103) -/

theorem insertField_zero (v b : Byte) : insertField 0 v b = b := by simp [insertField, byte_and_ones]

/-- Mask 0xFF writes the whole byte. -/
theorem insertField_ones (v b : Byte) : insertField 0xFF v b = v := by simp [insertField, byte_and_ones]

/-- The field holds those bits of the shifted value that land on the mask. -/
theorem insertField_and_mask (m v b : Byte) : insertField m v b &&& m = (v <<< (maskShift m).toNat) &&& m := by
  rw [insertField, BitVec.and_or_distrib_right, BitVec.and_assoc, BitVec.and_assoc, BitVec.and_self,
    BitVec.not_and_self]
  simp

/-- Clearing a field leaves a disjoint one whole. -/
theorem not_and_of_disjoint {m k : Byte} (h : m &&& k = 0) : ~~~m &&& k = k := by
  calc ~~~m &&& k
    _ = (m &&& k) ||| (~~~m &&& k) := by rw [h]; exact BitVec.zero_or.symm
    _ = (m ||| ~~~m) &&& k := BitVec.and_or_distrib_right.symm
    _ = k := by rw [BitVec.or_not_self, BitVec.allOnes_and]

/-- A field disjoint from the one written is kept. -/
theorem insertField_and_of_disjoint {m k : Byte} (h : m &&& k = 0) (v b : Byte) :
    insertField m v b &&& k = b &&& k := by
  rw [insertField, BitVec.and_or_distrib_right, BitVec.and_assoc, BitVec.and_assoc, h, not_and_of_disjoint h]
  simp

/-- Every bit outside the mask is kept (R103). -/
theorem insertField_and_not_mask (m v b : Byte) : insertField m v b &&& ~~~m = b &&& ~~~m :=
  insertField_and_of_disjoint (BitVec.and_not_self m) v b

/-! ### The value read back (R104) -/

/-- What is read back, in numbers: a bit that the shift of v pushes out of the byte is not in the mask either. -/
theorem extractField_insertField_toNat (m v b : Byte) :
    (extractField m (insertField m v b)).toNat =
      ((v.toNat <<< (maskShift m).toNat) &&& m.toNat) >>> (maskShift m).toNat := by
  have hmask (x : Nat) : x % 2 ^ 8 &&& m.toNat = x &&& m.toNat := by
    calc x % 2 ^ 8 &&& m.toNat
      _ = x % 2 ^ 8 &&& m.toNat % 2 ^ 8 := by rw [Nat.mod_eq_of_lt m.isLt]
      _ = (x &&& m.toNat) % 2 ^ 8 := Nat.and_mod_two_pow.symm
      _ = x &&& m.toNat := Nat.mod_eq_of_lt (Nat.and_lt_two_pow x m.isLt)
  rw [extractField, insertField_and_mask, BitVec.toNat_ushiftRight, BitVec.toNat_and, BitVec.toNat_shiftLeft, hmask]

/-- Masking a shifted number is shifting the number masked by the shifted mask. -/
theorem shiftLeft_and_eq (x s m : Nat) : (x <<< s) &&& m = (x &&& (m >>> s)) <<< s := by
  apply Nat.eq_of_testBit_eq
  intro i
  by_cases h : s ≤ i
  · simp [h]
  · simp [h]

theorem shiftLeft_inj {x y s : Nat} : x <<< s = y <<< s ↔ x = y := by simp [Nat.shiftLeft_eq]

/-- The value comes back exactly when every set bit of it lands on the mask. -/
theorem readBack_eq_iff (x s m : Nat) : ((x <<< s) &&& m) >>> s = x ↔ (x <<< s) &&& m = x <<< s := by
  rw [shiftLeft_and_eq, Nat.shiftLeft_shiftRight, shiftLeft_inj]

/-- On a contiguous mask of width w these are the values below 2^w. -/
theorem lands_on_contiguous_iff (x s w : Nat) : (x <<< s) &&& ((2 ^ w - 1) <<< s) = x <<< s ↔ x < 2 ^ w := by
  rw [← Nat.shiftLeft_and_distrib, shiftLeft_inj, Nat.and_two_pow_sub_one_eq_mod,
    Nat.mod_eq_iff_lt (Nat.two_pow_pos w).ne']

end Sys2Proof.Machine
end

/-! ## MSHIFT, RDF, WRF: the words and the runs -/

section
namespace Sys2Proof.Machine

/-! ### The words (R73, R105 to R107) -/

/-- A format-C word as its fields, each shifted to its place. -/
theorem packC_eq_or (op : BitVec 4) (a : Addr) (m v : Byte) :
    packC op a m v =
      (op.setWidth 32 <<< 28) ||| (a.setWidth 32 <<< 16) ||| (m.setWidth 32 <<< 8) ||| v.setWidth 32 := by
  apply BitVec.eq_of_getLsbD_eq
  intro i hi
  simp only [packC, BitVec.getLsbD_append, BitVec.getLsbD_or, BitVec.getLsbD_shiftLeft, BitVec.getLsbD_setWidth]
  grind

theorem encode_mshift (m : Byte) : encode (.mshift m) = 0x20000000 ||| (m.setWidth 32 <<< 8) := by
  rw [encode, packC_eq_or]
  simp

theorem encode_rdf (a : Addr) (m : Byte) :
    encode (.rdf a m) = 0x30000000 ||| (a.setWidth 32 <<< 16) ||| (m.setWidth 32 <<< 8) := by
  rw [encode, packC_eq_or]
  simp

theorem encode_wrf (a : Addr) (m v : Byte) :
    encode (.wrf a m v) =
      0x40000000 ||| (a.setWidth 32 <<< 16) ||| (m.setWidth 32 <<< 8) ||| v.setWidth 32 := by
  rw [encode, packC_eq_or]
  simp

/-! ### The runs (R53, R176) -/

/-- The state s after a command that leaves CAL_SUCCESS alone has ended with the code c: its trace is tr, and the
inputs rest are left over. -/
def ended (c : Code) (tr : List Event) (rest : List Input) (s : State) : State :=
  { s with trace := tr, status := endStatus c s.status, phase := .idle, inputs := rest }

/-- Ending a command that began in s. -/
theorem endCommand_enter {op : Instr} (h : isCalibration op = false) (c : Code) (r : Running) (tr : List Event)
    (rest : List Input) (s : State) :
    { endCommand (some op) c { enter r (accept s) with trace := tr } with inputs := rest } = ended c tr rest s := by
  simp [endCommand, enter, accept, ended, h]

theorem busCommand_runs {s : State} {xs : List Input} (hi : s.init = true) (hin : s.inputs = xs) (r : Running) :
    busCommand r s = .next (run xs (enter r (accept s))) := hin ▸ busCommand_init hi r

section
variable {s : State} {a : Addr} {d d' : Draw} {rest : List Input} {b : Byte} (hi : s.init = true)
include hi

/-- RDF with its read answered Ok (R106). -/
theorem exec_rdf_ok (hin : s.inputs = .answer d :: rest) (hr : s.sensor.readAnswer a d = some b) (m : Byte) :
    exec (.rdf a m) s =
      .next (ended .ok [.rd a (some b)] rest { s with result := zext32 (extractField m b) }) := by
  rw [exec, execRdf, busCommand_runs hi hin, run_rd (s := enter _ (accept s)) rfl rfl hr, run_idle rfl]
  exact congrArg _ (endCommand_enter rfl .ok _ _ rest { s with result := zext32 (extractField m b) })

/-- RDF with its read answered Err (R106). -/
theorem exec_rdf_err (hin : s.inputs = .answer d :: rest) (hr : s.sensor.readAnswer a d = none) (m : Byte) :
    exec (.rdf a m) s = .next (ended .transportError [.rd a none] rest s) := by
  rw [exec, execRdf, busCommand_runs hi hin, run_rd_err (s := enter _ (accept s)) rfl rfl hr]
  exact congrArg _ (endCommand_enter rfl .transportError _ _ rest s)

/-- WRF with its read answered Err issues no write (R107). -/
theorem exec_wrf_read_err (hin : s.inputs = .answer d :: rest) (hr : s.sensor.readAnswer a d = none) (m v : Byte) :
    exec (.wrf a m v) s = .next (ended .transportError [.rd a none] rest s) := by
  rw [exec, execWrf, busCommand_runs hi hin, run_rd_err (s := enter _ (accept s)) rfl rfl hr]
  exact congrArg _ (endCommand_enter rfl .transportError _ _ rest s)

/-- After its read WRF is at its write, with the read in the trace. -/
theorem exec_wrf_read_ok (hin : s.inputs = .answer d :: rest) (hr : s.sensor.readAnswer a d = some b) (m v : Byte) :
    exec (.wrf a m v) s =
      .next (run rest { enter (.wrf a m v (.write b)) (accept s) with trace := [.rd a (some b)] }) := by
  rw [exec, execWrf, busCommand_runs hi hin, run_rd (s := enter _ (accept s)) rfl rfl hr]
  rfl

/-- WRF with both transactions answered Ok (R107). -/
theorem exec_wrf_ok (hin : s.inputs = .answer d :: .answer d' :: rest) (hr : s.sensor.readAnswer a d = some b)
    (hw : s.sensor.writeAnswer d' = true) (m v : Byte) :
    exec (.wrf a m v) s =
      .next (ended .ok [.rd a (some b), .wr a (insertField m v b) true] rest
        { s with sensor := s.sensor.store a (insertField m v b) }) := by
  rw [exec_wrf_read_ok hi hin hr, run_wr (s := { enter _ (accept s) with trace := _ }) rfl rfl hw, run_idle rfl]
  exact congrArg _ (endCommand_enter rfl .ok _ _ rest { s with sensor := s.sensor.store a (insertField m v b) })

/-- WRF with its write answered Err (R107). -/
theorem exec_wrf_write_err (hin : s.inputs = .answer d :: .answer d' :: rest)
    (hr : s.sensor.readAnswer a d = some b) (hw : s.sensor.writeAnswer d' = false) (m v : Byte) :
    exec (.wrf a m v) s =
      .next (ended .transportError [.rd a (some b), .wr a (insertField m v b) false] rest s) := by
  rw [exec_wrf_read_ok hi hin hr, run_wr_err (s := { enter _ (accept s) with trace := _ }) rfl rfl hw]
  exact congrArg _ (endCommand_enter rfl .transportError _ _ rest s)

end

/-! ### The statements about one command -/

/-- Settles O34: MSHIFT is executed at once, so its effect is its definition. -/
theorem mshiftMeaning : Obligations.MshiftMeaning := by
  intro m s
  refine ⟨encode_mshift m, rfl, ?_, ?_, maskShift_le m⟩
  · rintro rfl; rfl
  · rintro rfl; rfl

/-- Settles O35: RDF's one event with either answer, and the laws of `extractField`. -/
theorem rdfMeaning : Obligations.RdfMeaning := by
  intro a m s
  refine ⟨encode_rdf a m, fun hi => busCommand_notInit hi _, fun hi d rest hin => ⟨fun b hr => ?_, fun hr => ?_⟩,
    fun b => ⟨?_, ?_, extractField_lt m b, extractField_and_not_mask m b⟩⟩
  · exact exec_rdf_ok hi hin hr m
  · exact exec_rdf_err hi hin hr m
  · rintro rfl; exact extractField_zero b
  · rintro rfl; exact extractField_ones b

/-- Settles O36: WRF's two events with every answer, and the two corner masks of `insertField`. -/
theorem wrfMeaning : Obligations.WrfMeaning := by
  intro a m v s
  refine ⟨encode_wrf a m v, fun hi => busCommand_notInit hi _, fun hi d rest hin hr => ?_,
    fun hi d d' rest b b2 hin hr hb => ?_, fun b => ⟨?_, ?_⟩⟩
  · exact exec_wrf_read_err hi hin hr m v
  · subst hb
    exact ⟨fun hw => exec_wrf_ok hi hin hr hw m v, fun hw => exec_wrf_write_err hi hin hr hw m v⟩
  · rintro rfl; exact insertField_zero v b
  · rintro rfl; exact insertField_ones v b

end Sys2Proof.Machine
end

/-! ## RDF and WRF one after the other -/

section
namespace Sys2Proof.Machine

/-! ### Under SIM (R54) -/

theorem Memory.read_write_same {mem : Memory} (h : mem.wf = true) (a : Addr) (b : Byte) :
    (mem.write a b).read a = b :=
  (Memory.read_write_from a b a h).trans (if_pos rfl)

/-- The block is initialised, SIM holds mem, and the inputs to come are xs. -/
structure OnSim (mem : Memory) (xs : List Input) (s : State) : Prop where
  init : s.init = true
  sensor : s.sensor = .sim mem
  inputs : s.inputs = xs

section
variable {mem : Memory} {d d' : Draw} {rest : List Input} {s : State}

/-- RDF under SIM returns the field of the byte that SIM holds. -/
theorem OnSim.rdf (h : OnSim mem (.answer d :: rest) s) (a : Addr) (m : Byte) :
    ∃ t, exec (.rdf a m) s = .next t ∧ OnSim mem rest t ∧ t.phase = .idle ∧
      statusCode t.status = Code.bits .ok ∧ t.result = zext32 (extractField m (mem.read a)) := by
  obtain ⟨hi, hs, hin⟩ := h
  have hr : s.sensor.readAnswer a d = some (mem.read a) := by rw [hs]; rfl
  exact ⟨_, exec_rdf_ok hi hin hr m, ⟨hi, hs, rfl⟩, rfl, endStatus_code .ok _, rfl⟩

/-- WRF under SIM leaves the merged byte in SIM. -/
theorem OnSim.wrf (h : OnSim mem (.answer d :: .answer d' :: rest) s) (a : Addr) (m v : Byte) :
    ∃ t, exec (.wrf a m v) s = .next t ∧ OnSim (mem.write a (insertField m v (mem.read a))) rest t ∧
      t.phase = .idle := by
  obtain ⟨hi, hs, hin⟩ := h
  have hr : s.sensor.readAnswer a d = some (mem.read a) := by rw [hs]; rfl
  have hw : s.sensor.writeAnswer d' = true := by rw [hs]; rfl
  exact ⟨_, exec_wrf_ok hi hin hr hw m v, ⟨hi, congrArg (Sensor.store a _) hs, rfl⟩, rfl⟩

end

/-- Settles O37: the law of `insertField`, and the spec's program, where RDF a, 0xFF returns the byte SIM holds. -/
theorem fieldPreservation : Obligations.FieldPreservation := by
  refine ⟨insertField_and_not_mask, fun a m v s mem d1 d2 d3 d4 rest hi hs hwf hin => ?_⟩
  obtain ⟨t, hst, ht, htp, -, htr⟩ := OnSim.rdf ⟨hi, hs, hin⟩ a 0xFF
  obtain ⟨u, htu, hu, hup⟩ := ht.wrf a m v
  obtain ⟨x, hux, -, hxp, -, hxr⟩ := hu.rdf a 0xFF
  refine ⟨t, u, x, hst, htu, hux, htp, hup, hxp, ?_⟩
  rw [htr, hxr, Memory.read_write_same hwf, extractField_ones, extractField_ones, ← BitVec.setWidth_and,
    ← BitVec.setWidth_and, insertField_and_not_mask]

/-- Settles O39: each field is disjoint from the other one, and the rest of the byte from both. -/
theorem siblingFields : Obligations.SiblingFields := by
  intro a m m' v v' s mem d1 d2 d3 d4 rest hm hi hs hwf hin
  obtain ⟨t, hst, ht, -⟩ := OnSim.wrf ⟨hi, hs, hin⟩ a m v
  obtain ⟨u, htu, hu, hup⟩ := ht.wrf a m' v'
  have hread : u.sensor.mem.read a = insertField m' v' (insertField m v (mem.read a)) := by
    rw [hu.sensor, Sensor.mem_sim, Memory.read_write_same (Memory.write_wf _ _ hwf), Memory.read_write_same hwf]
  have hrest (x y : Byte) : x &&& ~~~(x ||| y) = 0 := by
    rw [BitVec.not_or, ← BitVec.and_assoc, BitVec.and_not_self]
    exact BitVec.zero_and
  refine ⟨t, u, hst, htu, hup, ?_, ?_, ?_⟩
  · rw [hread, insertField_and_of_disjoint (BitVec.and_comm m m' ▸ hm), insertField_and_mask]
  · rw [hread, insertField_and_mask]
  · rw [hread, insertField_and_of_disjoint (BitVec.or_comm m m' ▸ hrest m' m),
      insertField_and_of_disjoint (hrest m m')]

/-! ### Reading a field back -/

/-- The round trip under SIM: the value as the mask has cut it. -/
theorem OnSim.roundTrip {mem : Memory} {d d' d'' : Draw} {rest : List Input} {s : State} (hwf : mem.wf = true)
    (h : OnSim mem (.answer d :: .answer d' :: .answer d'' :: rest) s) (a : Addr) (m v : Byte) :
    ∃ t u, exec (.wrf a m v) s = .next t ∧ exec (.rdf a m) t = .next u ∧ u.phase = .idle ∧
      statusCode u.status = Code.bits .ok ∧
      u.result.toNat = ((v.toNat <<< (maskShift m).toNat) &&& m.toNat) >>> (maskShift m).toNat := by
  obtain ⟨t, hst, ht, -⟩ := h.wrf a m v
  obtain ⟨u, htu, -, hup, huc, hur⟩ := ht.rdf a m
  refine ⟨t, u, hst, htu, hup, huc, ?_⟩
  rw [hur, Memory.read_write_same hwf, BitVec.toNat_setWidth_of_le (by decide), extractField_insertField_toNat]

/-- Initialised under the free oracle, which answers both reads of a WRF and an RDF with 0. -/
def forgetful : State :=
  { State.reset with init := true, inputs := answering (List.replicate 3 ⟨true, 0, 0, 0⟩) }

/-- The free oracle need not keep what is written: 1 is written to bit 0 of address 0, and 0 is read back. -/
theorem forgetful_readBack :
    ∃ t u, exec (.wrf 0 1 1) forgetful = .next t ∧ exec (.rdf 0 1) t = .next u ∧
      statusCode t.status = Code.bits .ok ∧ statusCode u.status = Code.bits .ok ∧
      u.result.toNat ≠ (1 : Byte).toNat :=
  ⟨_, _, rfl, rfl, by decide, by decide, by decide⟩

/-- Settles O38: the round trip under SIM, the arithmetic of the mask, and a run under the free oracle. -/
theorem fieldRoundTrip : Obligations.FieldRoundTrip := by
  refine ⟨fun a m v s mem d1 d2 d3 rest hi hs hwf hin => ?_, fun m v w hm => ?_, ?_⟩
  · obtain ⟨t, u, hst, htu, hup, huc, hval⟩ := OnSim.roundTrip hwf ⟨hi, hs, hin⟩ a m v
    exact ⟨t, u, hst, htu, hup, huc, hval, hval ▸ readBack_eq_iff _ _ _⟩
  · rw [hm, lands_on_contiguous_iff]
  · obtain ⟨t, u, hst, htu, htc, huc, hne⟩ := forgetful_readBack
    exact ⟨0, 1, 1, forgetful, t, u, rfl, rfl, by decide, rfl, hst, htu, htc, huc, hne⟩

end Sys2Proof.Machine
end

/-! ## Proofs of the family 42_calibration.md: answers in parts -/

section
namespace Sys2Proof.Machine

/-- The same state with other inputs to come. -/
def withInputs (xs : List Input) (s : State) : State := { s with inputs := xs }

theorem unseen_withInputs (xs : List Input) : Unseen (withInputs xs) :=
  ⟨fun _ => rfl, fun _ _ => rfl, fun _ _ => rfl, fun _ _ _ _ => rfl⟩

/-! ### No event looks at the inputs to come -/

section continuations
variable (xs : List Input)

theorem writeField_withInputs {g : RegField} {v : Byte} {p : Rmw} {at_ : Rmw → Running} {k : State → State}
    (hk : ∀ u, k (withInputs xs u) = withInputs xs (k u)) : (writeField g v p at_ k).GoesOnAlike (withInputs xs) := by
  cases p with
  | read => exact fun _ _ => rfl
  | write b => exact hk

/-- A branch whose condition does not depend on the change f, and whose two sides are alike. -/
theorem ite_alike {f : State → State} {c : Prop} [Decidable c] {t e t' e' : State} (ht : t' = f t) (he : e' = f e) :
    (if c then t' else e') = f (if c then t else e) := by
  rw [ht, he, apply_ite f]

theorem checkPowered_withInputs (op : Instr) (r : Running) : (checkPowered op (goOn r)).GoesOnAlike (withInputs xs) :=
  fun _ _ => ite_alike rfl rfl

theorem rcoVerdict_withInputs (t v : Byte) (u : State) :
    rcoVerdict t v (withInputs xs u) = withInputs xs (rcoVerdict t v u) := ite_alike rfl rfl

theorem windowSample_withInputs (q : BitVec 2) (l : Bool) (u : State) :
    windowSample q l (withInputs xs u) = withInputs xs (windowSample q l u) := ite_alike (ite_alike rfl rfl) rfl

theorem scanNext_withInputs (q : BitVec 2) (u : State) :
    scanNext q (withInputs xs u) = withInputs xs (scanNext q u) := ite_alike rfl rfl

theorem scanVerdict_withInputs (q : BitVec 2) (u : State) :
    scanVerdict q (withInputs xs u) = withInputs xs (scanVerdict q u) := ite_alike rfl rfl

theorem rcoAction_withInputs (p : RcoPoint) : (rcoAction p).GoesOnAlike (withInputs xs) := by
  unfold rcoAction
  cases p with
  | power => exact checkPowered_withInputs xs _ _
  | settle => exact fun _ => rfl
  | trco => exact fun _ _ => rfl
  | srco t => exact fun b => rcoVerdict_withInputs xs t (extractField fSrcoNok.mask b)
  | _ => exact writeField_withInputs xs fun _ => rfl

theorem resAction_withInputs (q : BitVec 2) (s : State) (p : ResPoint) :
    (resAction q s p).GoesOnAlike (withInputs xs) := by
  unfold resAction
  cases p with
  | power => exact checkPowered_withInputs xs _ _
  | settleB => exact fun _ => rfl
  | settleD => exact fun _ => rfl
  | windowStart => exact fun _ _ => rfl
  | windowRef => exact fun _ _ => rfl
  | windowClock => exact fun _ _ => ite_alike rfl rfl
  | windowPin => exact windowSample_withInputs xs q
  | hideLco b => exact writeField_withInputs xs (scanNext_withInputs xs q)
  | best b => exact writeField_withInputs xs (scanVerdict_withInputs xs q)
  | _ => exact writeField_withInputs xs fun _ => rfl

theorem presetAction_withInputs (p : PresetPoint) : (presetAction p).GoesOnAlike (withInputs xs) := by
  unfold presetAction
  cases p with
  | trigger b => exact writeField_withInputs xs fun _ => rfl
  | settle => exact fun _ => rfl

/-- No command in execution reads or writes the inputs to come as it goes on. -/
theorem action_withInputs (r : Running) (s : State) : (action r s).GoesOnAlike (withInputs xs) := by
  cases r with
  | rdf a m => exact fun _ _ => rfl
  | wrf a m v p => exact writeField_withInputs xs fun _ => rfl
  | calrco p => exact rcoAction_withInputs xs p
  | calres q p => exact resAction_withInputs xs q s p
  | rstdef p => exact presetAction_withInputs xs p
  | rdenergy p => cases p <;> exact fun _ _ => rfl

end continuations

theorem perform_withInputs (r : Running) (d : Draw) (xs : List Input) (s : State) :
    perform r d (withInputs xs s) = withInputs xs (perform r d s) := by
  rw [perform, withInputs, action_inputs]
  exact (action_withInputs xs r s).perform (unseen_withInputs xs) (fun _ => rfl) d s

/-! ### Runs on answers given in parts -/

/-- A command runs on the inputs it is given, not on those the state holds. -/
theorem run_withInputs (xs ys : List Input) (s : State) : run xs (withInputs ys s) = run xs s := by
  induction xs generalizing s with
  | nil => rfl
  | cons x xs ih =>
    cases hp : s.phase with
    | idle => rw [run_idle hp, run_idle (s := withInputs ys s) hp]; rfl
    | exec r =>
      have hp' : (withInputs ys s).phase = .exec r := hp
      cases x with
      | answer d => rw [run_answer hp, run_answer hp', perform_withInputs, ih]
      | wait => rw [run_wait hp, run_wait hp']; rfl
      | reset reached => rw [run_reset hp, run_reset hp']; rfl

/-- What the answers ds leave of themselves stands before the inputs that follow them. -/
theorem run_answering_append (ds : List Draw) (ys : List Input) (s : State) :
    run (answering ds ++ ys) s = run ((run (answering ds) s).inputs ++ ys) (run (answering ds) s) := by
  induction ds generalizing s with
  | nil => exact (run_withInputs ys [] s).symm
  | cons d ds ih =>
    cases hp : s.phase with
    | idle =>
      rw [run_idle hp, run_idle hp, run_idle (s := { s with inputs := answering (d :: ds) }) hp]
    | exec r =>
      calc run (answering (d :: ds) ++ ys) s
        _ = run (answering ds ++ ys) (perform r d s) := run_answer hp d _
        _ = _ := ih _
        _ = _ := by rw [← run_answer hp d (answering ds)]; rfl

/-- Settles O15: each of the three runs is on the inputs it is given, whatever the state held before. -/
theorem answersInPartsAreAnswersAtOnce : Obligations.AnswersInPartsAreAnswersAtOnce := by
  intro s ds ys
  have hpart : resume (withInputs (answering ds) s) = run (answering ds) s := run_withInputs _ _ s
  change run (answering ds ++ ys) (withInputs _ s) =
    run ((resume (withInputs (answering ds) s)).inputs ++ ys) (withInputs _ (resume (withInputs (answering ds) s)))
  rw [run_withInputs, run_withInputs, hpart, run_answering_append]

end Sys2Proof.Machine
end

/-! ## From point to point: what a list of answers brings a command to -/

section
namespace Sys2Proof.Machine

/-- The answers ds bring a command in the state s to the state t, and every input after them is met there. -/
def Leads (s : State) (ds : List Draw) (t : State) : Prop :=
  ∀ xs, run (answering ds ++ xs) s = run xs t

theorem Leads.trans {s t u : State} {ds es : List Draw} (h : Leads s ds t) (h' : Leads t es u) :
    Leads s (ds ++ es) u := fun xs => by
  rw [answering, List.map_append, List.append_assoc]
  exact (h _).trans (h' xs)

/-- A command in execution at r, in the machine s: a command writes nothing else before it ends. -/
def standing (r : Running) (w : CalWork) (m : Sensor) (tr : List Event) (s : State) : State :=
  { s with phase := .exec r, work := w, sensor := m, trace := tr }

section standing
variable (r r' : Running) (w : CalWork) (m : Sensor) (tr : List Event) (s : State)

@[simp] theorem standing_work : (standing r w m tr s).work = w := rfl
@[simp] theorem standing_config : (standing r w m tr s).config = s.config := rfl
@[simp] theorem goOn_standing : goOn r' (standing r w m tr s) = standing r' w m tr s := rfl
@[simp] theorem record_standing (e : Event) : record e (standing r w m tr s) = standing r w m (tr ++ [e]) s := rfl

end standing

/-- A bus command that its answers lead to its end. -/
theorem busCommand_of_leads {s t : State} {r : Running} {ds : List Draw} {rest : List Input} (hi : s.init = true)
    (hin : s.inputs = answering ds ++ rest)
    (h : Leads (standing r s.work s.sensor [] { s with status := startStatus s.status }) ds t) (ht : t.phase = .idle) :
    busCommand r s = .next { t with inputs := rest } := by
  rw [busCommand_runs hi hin]
  exact congrArg _ ((h rest).trans (run_idle ht rest))

/-- The field POWER_DOWN is bit 0 (R35). -/
theorem extractField_powerDown (b : Byte) : extractField fPowerDown.mask b = b &&& 0x01 := by revert b; decide

section events
variable {r r' : Running} {w : CalWork} {m : Sensor} {tr : List Event} {s : State} {x y : Draw} {b p : Byte}

/-- One event of the command. -/
theorem leads_perform {t : State} (h : perform r x (standing r w m tr s) = t) : Leads (standing r w m tr s) [x] t :=
  fun xs => h ▸ run_answer rfl x xs

/-- A read answered Ok (R53). -/
theorem leads_rd {a : Addr} {k : Byte → State → State} {t : State} (ha : action r (standing r w m tr s) = .rd a k)
    (hx : m.readAnswer a x = some b) (hk : k b (standing r w m (tr ++ [.rd a (some b)]) s) = t) :
    Leads (standing r w m tr s) [x] t := hk ▸ run_rd rfl ha hx

/-- `checkPowered()` of a sensor that is powered (R120). -/
theorem leads_checkPowered {op : Instr}
    (ha : action r (standing r w m tr s) = checkPowered op (goOn r')) (hx : m.readAnswer 0x00 x = some p)
    (hp : p &&& 0x01 = 0) :
    Leads (standing r w m tr s) [x] (standing r' w m (tr ++ [.rd 0x00 (some p)]) s) := by
  have hoff : extractField fPowerDown.mask p ≠ 1 := by rw [extractField_powerDown, hp]; decide
  exact leads_rd ha hx (if_neg hoff)

/-- A writeField whose two transactions are granted: the merged byte b' is stored (R102). -/
theorem leads_writeField {g : RegField} {v b' : Byte} {at_ : Rmw → Running} {k : State → State}
    (ha : ∀ q m tr, action (at_ q) (standing (at_ q) w m tr s) = writeField g v q at_ k)
    (hx : m.readAnswer g.addr x = some b) (hy : m.writeAnswer y = true) (hb : insertField g.mask v b = b') :
    Leads (standing (at_ .read) w m tr s) [x, y]
      (k (standing (at_ (.write b)) w (m.store g.addr b') (tr ++ [.rd g.addr (some b), .wr g.addr b' true]) s)) := by
  have hread : Leads (standing (at_ .read) w m tr s) [x]
      (standing (at_ (.write b)) w m (tr ++ [.rd g.addr (some b)]) s) := leads_rd (ha .read m tr) hx rfl
  have hwrite : Leads (standing (at_ (.write b)) w m (tr ++ [.rd g.addr (some b)]) s) [y]
      (k (standing (at_ (.write b)) w (m.store g.addr b') (tr ++ [.rd g.addr (some b)] ++ [.wr g.addr b' true]) s)) :=
    hb ▸ run_wr rfl (ha (.write b) m (tr ++ [.rd g.addr (some b)])) hy
  rw [List.append_assoc] at hwrite
  exact hread.trans hwrite

end events

end Sys2Proof.Machine
end

/-! ## CALRCO, and the targets of CALRES -/

section
namespace Sys2Proof.Machine

/-- The verdict of CALRCO in the bytes read (R121). -/
theorem rcoVerdict_eq (q r : Byte) (s : State) :
    rcoVerdict (extractField fTrcoNok.mask q) (extractField fSrcoNok.mask r) s =
      endCommand (some .calrco) (if q &&& 0x40 == 0 && r &&& 0x40 == 0 then .ok else .calFail)
        { s with calSuccess := q &&& 0x40 == 0 && r &&& 0x40 == 0 } := by
  have hfield (b : Byte) : extractField 0x40 b = 0 ↔ b &&& 0x40 = 0 := by revert b; decide
  by_cases h : q &&& 0x40 = 0 ∧ r &&& 0x40 = 0
  · have hok : (q &&& 0x40 == 0 && r &&& 0x40 == 0) = true := by simpa using h
    rw [fTrcoNok, fSrcoNok, (hfield q).2 h.1, (hfield r).2 h.2, rcoVerdict_ok, hok]
    rfl
  · have hok : (q &&& 0x40 == 0 && r &&& 0x40 == 0) = false := by
      rw [Bool.eq_false_iff]
      simpa using h
    rw [rcoVerdict_fail (by rwa [fTrcoNok, fSrcoNok, hfield, hfield]), hok]
    rfl

/-- DISP_SRCO set, and cleared, in the byte at 0x08 (R35). -/
theorem insertField_dispSrco (b : Byte) :
    insertField fDispSrco.mask 1 b = b ||| 0x40 ∧ insertField fDispSrco.mask 0 b = b &&& 0xBF := by
  revert b; decide

section
variable {w : CalWork} {m : Sensor} {tr : List Event} {s : State} {x y : Draw} {b : Byte}

theorem leads_calrco_power (hx : m.readAnswer 0x00 x = some b) (hb : b &&& 0x01 = 0) :
    Leads (standing (.calrco .power) w m tr s) [x]
      (standing (.calrco (.trigger .read)) w m (tr ++ [.rd 0x00 (some b)]) s) := leads_checkPowered rfl hx hb

/-- A writeField of CALRCO, after which it goes on at p (R121). -/
theorem leads_calrco_writeField {g : RegField} {v b' : Byte} {at_ : Rmw → RcoPoint} {p : RcoPoint}
    (ha : ∀ q, rcoAction (at_ q) = writeField g v q (fun q => .calrco (at_ q)) (goOn (.calrco p)))
    (hx : m.readAnswer g.addr x = some b) (hy : m.writeAnswer y = true) (hb : insertField g.mask v b = b') :
    Leads (standing (.calrco (at_ .read)) w m tr s) [x, y]
      (standing (.calrco p) w (m.store g.addr b') (tr ++ [.rd g.addr (some b), .wr g.addr b' true]) s) :=
  leads_writeField (at_ := fun q => .calrco (at_ q)) (fun q _ _ => ha q) hx hy hb

theorem leads_calrco_settle :
    Leads (standing (.calrco .settle) w m tr s) [x]
      (standing (.calrco (.hideSrco .read)) w m (tr ++ [.dly 2000]) s) := leads_perform rfl

theorem leads_calrco_trco (hx : m.readAnswer 0x3A x = some b) :
    Leads (standing (.calrco .trco) w m tr s) [x]
      (standing (.calrco (.srco (extractField fTrcoNok.mask b))) w m (tr ++ [.rd 0x3A (some b)]) s) :=
  leads_rd rfl hx rfl

theorem leads_calrco_srco {t : Byte} (hx : m.readAnswer 0x3B x = some b) :
    Leads (standing (.calrco (.srco t)) w m tr s) [x]
      (rcoVerdict t (extractField fSrcoNok.mask b) (standing (.calrco (.srco t)) w m (tr ++ [.rd 0x3B (some b)]) s)) :=
  leads_rd rfl hx rfl

end

/-- Settles O43: CALRCO point by point, each granted event leading to the next. -/
theorem calrcoFullPath : Obligations.CalrcoFullPath := by
  intro s d0 d1 d2 d3 d4 d5 d6 d7 d8 d9 rest p x b0 b1 q r m1 m2 m3 hi hin h0 hp h1 h2 hm1 h3 h4 hm2 h6 h7 hm3 h8 h9
  subst hm1 hm2 hm3
  have hpower := leads_calrco_power (w := s.work) (tr := []) (s := { s with status := startStatus s.status }) h0 hp
  have htrigger := hpower.trans
    (leads_calrco_writeField (at_ := .trigger) (fun _ => rfl) h1 h2 (insertField_ones _ _))
  have hshow := htrigger.trans
    (leads_calrco_writeField (at_ := .showSrco) (fun _ => rfl) h3 h4 (insertField_dispSrco b0).1)
  have hhide := (hshow.trans (leads_calrco_settle (x := d5))).trans
    (leads_calrco_writeField (at_ := .hideSrco) (fun _ => rfl) h6 h7 (insertField_dispSrco b1).2)
  have hverdict := (hhide.trans (leads_calrco_trco h8)).trans (leads_calrco_srco h9)
  rw [rcoVerdict_eq] at hverdict
  refine (busCommand_of_leads hi hin hverdict rfl).trans ?_
  cases q &&& 0x40 == 0 && r &&& 0x40 == 0 <;>
    simp only [endCommand, standing, endStatus_startStatus] <;> rfl

/-- Settles O44: the formulas over the four codes, and the two tables, are computed. -/
theorem targetAndThreshold : Obligations.TargetAndThreshold := by
  refine ⟨fun d => ⟨?_, targetOf_toNat d, thresholdOf_toNat d⟩, ?_, ?_⟩
  · revert d; decide
  · decide
  · decide

end Sys2Proof.Machine
end

/-! ## The window of CALRES -/

section
namespace Sys2Proof.Machine

/-- Settles O47: the sample of `windowSample_overflow`, with the largest count as a signed number. -/
theorem countOverflow : Obligations.CountOverflow := by
  intro d s x rest hp hc hl hin
  have hmax : s.work.count = countMax := BitVec.eq_of_toInt_eq hc
  rw [resume, hin, run_pin hp rfl, windowSample_overflow (by exact hl) (by exact hmax), run_idle rfl]
  rfl

/-- The working state after a window has sampled the levels ls (R123). -/
def CalWork.sampled (w : CalWork) (ls : List Bool) : CalWork :=
  { w with count := w.count + BitVec.ofNat 32 (edges w.prev ls), prev := ls.getLastD w.prev }

theorem CalWork.sampled_nil (w : CalWork) : w.sampled [] = w := by simp [CalWork.sampled, edges]

theorem CalWork.sampled_cons (w : CalWork) (l : Bool) (ls : List Bool) :
    w.sampled (l :: ls) = (w.sampled [l]).sampled ls := by
  simp only [CalWork.sampled, edges, List.getLastD_cons, List.getLastD_nil, BitVec.ofNat_add, BitVec.add_assoc,
    Nat.add_zero]

/-- Below 2^31 the count of the working state is the count of the window. -/
theorem CalWork.sampled_count_toNat {w : CalWork} {ls : List Bool} (h : w.count.toNat + edges w.prev ls < 2 ^ 31) :
    (w.sampled ls).count.toNat = w.count.toNat + edges w.prev ls := by
  simp only [CalWork.sampled, BitVec.toNat_add, BitVec.toNat_ofNat]
  omega

section
variable {d : BitVec 2} {r : Running} {w : CalWork} {m : Sensor} {tr : List Event} {s : State}

/-- A sample of a window whose count stays below 2^31 (R123, R128). -/
theorem windowSample_standing {l : Bool} (h : w.count.toNat + edges w.prev [l] < 2 ^ 31) :
    windowSample d l (standing r w m tr s) = standing (.calres d .windowClock) (w.sampled [l]) m tr s := by
  by_cases hl : l = w.prev
  · subst hl
    have hw : w.sampled [w.prev] = w := by simp [CalWork.sampled, edges]
    rw [windowSample_same (by rfl), hw]
    rfl
  · have hmax : w.count ≠ countMax := by
      rw [Ne, countMax_iff]
      simp only [edges, ne_eq, hl, not_false_eq_true, if_true] at h
      omega
    have hw : w.sampled [l] = { w with count := w.count + 1, prev := l } := by simp [CalWork.sampled, edges, hl]
    rw [windowSample_edge (by exact hl) (by exact hmax), hw]
    rfl

/-! ### The events of the window, one by one -/

section points
variable {x : Draw}

theorem leads_windowStart :
    Leads (standing (.calres d .windowStart) w m tr s) [x]
      (standing (.calres d .windowRef) { w with t0 := x.millis } m (tr ++ [.clk x.millis]) s) :=
  leads_perform (by rw [perform_calres_start, record_standing]; rfl)

theorem leads_windowRef :
    Leads (standing (.calres d .windowRef) w m tr s) [x]
      (standing (.calres d .windowClock) { w with prev := pinLevel s.config x, count := 0 } m
        (tr ++ [.pin (pinLevel s.config x)]) s) :=
  leads_perform (by rw [perform_calres_ref, standing_config, record_standing]; rfl)

theorem leads_windowClock_open (h : windowOpen x.millis w.t0 = true) :
    Leads (standing (.calres d .windowClock) w m tr s) [x]
      (standing (.calres d .windowPin) w m (tr ++ [.clk x.millis]) s) :=
  leads_perform (by rw [perform_calres_clock, standing_work, if_pos h, record_standing, goOn_standing])

theorem leads_windowClock_over (h : windowOpen x.millis w.t0 = false) :
    Leads (standing (.calres d .windowClock) w m tr s) [x]
      (standing (.calres d (.hideLco .read)) w m (tr ++ [.clk x.millis]) s) :=
  leads_perform (by
    rw [perform_calres_clock, standing_work, if_neg (Bool.eq_false_iff.1 h), record_standing, goOn_standing])

/-- A sample, the count staying below 2^31 (R123, R128). -/
theorem leads_windowPin (h : w.count.toNat + edges w.prev [pinLevel s.config x] < 2 ^ 31) :
    Leads (standing (.calres d .windowPin) w m tr s) [x]
      (standing (.calres d .windowClock) (w.sampled [pinLevel s.config x]) m (tr ++ [.pin (pinLevel s.config x)]) s) :=
  leads_perform (by rw [perform_calres_pin, standing_config, record_standing, windowSample_standing h])

end points

/-! ### The whole window -/

/-- One round of the loop: a clock read that shows the window open, and a sample. -/
theorem leads_windowRound {c p : Draw} (ho : windowOpen c.millis w.t0 = true)
    (h : w.count.toNat + edges w.prev [pinLevel s.config p] < 2 ^ 31) :
    Leads (standing (.calres d .windowClock) w m tr s) [c, p]
      (standing (.calres d .windowClock) (w.sampled [pinLevel s.config p]) m
        (tr ++ loopEvents s.config [(c, p)]) s) := by
  have hpin := leads_windowPin (d := d) (m := m) (tr := tr ++ [.clk c.millis]) h
  rw [List.append_assoc] at hpin
  exact (leads_windowClock_open ho).trans hpin

/-- The loop stays in the window as long as no clock read shows its end and the count is below 2^31 (R123, R124). -/
theorem leads_windowRounds {loops : List (Draw × Draw)} (ho : ∀ l ∈ loops, windowOpen l.1.millis w.t0 = true)
    (h : w.count.toNat + edges w.prev (loops.map fun l => pinLevel s.config l.2) < 2 ^ 31) :
    Leads (standing (.calres d .windowClock) w m tr s) (loopAnswers loops)
      (standing (.calres d .windowClock) (w.sampled (loops.map fun l => pinLevel s.config l.2)) m
        (tr ++ loopEvents s.config loops) s) := by
  induction loops generalizing w tr with
  | nil =>
    rw [List.map_nil, CalWork.sampled_nil, loopEvents, List.append_nil]
    exact fun _ => rfl
  | cons l loops ih =>
    obtain ⟨c, p⟩ := l
    rw [List.forall_mem_cons] at ho
    simp only [List.map_cons, edges] at h
    have hround : w.count.toNat + edges w.prev [pinLevel s.config p] < 2 ^ 31 := by
      simp only [edges]
      omega
    have hrest := ih (w := w.sampled [pinLevel s.config p]) (tr := tr ++ loopEvents s.config [(c, p)]) ho.2 (by
      rw [CalWork.sampled_count_toNat hround, edges, edges, Nat.add_zero, Nat.add_assoc]
      exact h)
    rw [← CalWork.sampled_cons, List.append_assoc] at hrest
    exact (leads_windowRound ho.1 hround).trans hrest

/-- The working state after a whole window: t0 of its first clock read, the count and the last sample (R123). -/
def Window.work (c : Config) (v : Window) (w : CalWork) : CalWork :=
  { w with
    t0 := v.start.millis
    prev := (v.loops.map fun l => pinLevel c l.2).getLastD (pinLevel c v.reference)
    count := BitVec.ofNat 32 (v.count c) }

/-- A window that the clock closes, its count below 2^31 (R123). -/
theorem leads_window {v : Window} (hv : v.closes = true) (hn : v.count s.config < 2 ^ 31) :
    Leads (standing (.calres d .windowStart) w m tr s) v.answers
      (standing (.calres d (.hideLco .read)) (v.work s.config w) m (tr ++ v.events s.config) s) := by
  simp only [Window.closes, Bool.and_eq_true, List.all_eq_true, Bool.not_eq_true'] at hv
  obtain ⟨hloops, hstop⟩ := hv
  have hopen := (leads_windowStart (d := d) (w := w) (m := m) (tr := tr) (s := s) (x := v.start)).trans
    (leads_windowRef (x := v.reference))
  have hcount : 0 + edges (pinLevel s.config v.reference) (v.loops.map fun l => pinLevel s.config l.2) < 2 ^ 31 := by
    rwa [Nat.zero_add]
  have hclose := (hopen.trans (leads_windowRounds hloops hcount)).trans (leads_windowClock_over (x := v.stop) hstop)
  have hwork : CalWork.sampled { w with t0 := v.start.millis, prev := pinLevel s.config v.reference, count := 0 }
      (v.loops.map fun l => pinLevel s.config l.2) = v.work s.config w := by
    simp [CalWork.sampled, Window.work, Window.count]
  rw [hwork] at hclose
  simpa [Window.answers, Window.events] using hclose

end

/-- The state s as a command that stands at r. -/
theorem standing_self {r : Running} {s : State} (h : s.phase = .exec r) :
    standing r s.work s.sensor s.trace s = s := by rw [standing, ← h]

/-- Settles O46: the rounds of the loop, and no answer after them. -/
theorem windowHasNoTimeout : Obligations.WindowHasNoTimeout := by
  intro d s loops hp ho hn hin
  have hrun := leads_windowRounds (d := d) (m := s.sensor) (tr := s.trace) ho hn []
  rw [List.append_nil, ← hin, standing_self hp] at hrun
  exact ⟨_, hrun, rfl, rfl, rfl, CalWork.sampled_count_toNat hn⟩

/-- Settles O45: a whole window, and whatever inputs follow it. -/
theorem countEdges : Obligations.CountEdges := by
  intro d s v rest hp hv hn hin
  have hrun := leads_window (d := d) (w := s.work) (m := s.sensor) (tr := s.trace) hv hn rest
  rw [← hin, standing_self hp] at hrun
  exact ⟨_, hrun.trans (run_withInputs rest rest _).symm⟩

end Sys2Proof.Machine
end

/-! ## The first setting nearest the target (R129) -/

section
namespace Sys2Proof.Machine

/-- Of the counts cs, setting k has the count n, which is the first nearest the target (R129). -/
structure NearestSoFar (target : Nat) (cs : List Nat) (k n : Nat) : Prop where
  count : cs[k]? = some n
  nearest : ∀ x ∈ cs, distance target n ≤ distance target x
  first : ∀ x ∈ cs.take k, distance target n < distance target x

section
variable {target k n c : Nat} {cs : List Nat}

theorem NearestSoFar.firstNearest (h : NearestSoFar target cs k n) : FirstNearest target cs k := by
  obtain ⟨hk, hkn⟩ := List.getElem?_eq_some_iff.1 h.count
  refine ⟨hk, fun j hj => hkn ▸ h.nearest _ (List.getElem_mem hj), fun j hj => hkn ▸ h.first _ ?_⟩
  exact List.mem_take_iff_getElem.2 ⟨j, by omega, rfl⟩

/-- A count strictly nearer than all before it is the new first nearest. -/
theorem nearestSoFar_better (h : ∀ x ∈ cs, distance target c < distance target x) :
    NearestSoFar target (cs ++ [c]) cs.length c where
  count := List.getElem?_concat_length
  nearest x hx := by
    obtain hx | rfl := List.mem_append.1 hx |>.imp_right List.mem_singleton.1
    · exact (h x hx).le
    · exact le_rfl
  first x hx := h x (by rwa [List.take_left] at hx)

/-- A count that is no nearer leaves the first nearest as it is: ties keep the earlier setting. -/
theorem NearestSoFar.keeps (h : NearestSoFar target cs k n) (hc : distance target n ≤ distance target c) :
    NearestSoFar target (cs ++ [c]) k n := by
  have hk : k < cs.length := (List.getElem?_eq_some_iff.1 h.count).1
  refine ⟨(List.getElem?_append_left hk).trans h.count, fun x hx => ?_, fun x hx => h.first x ?_⟩
  · obtain hx | rfl := List.mem_append.1 hx |>.imp_right List.mem_singleton.1
    · exact h.nearest x hx
    · exact hc
  · rwa [List.take_append_of_le_length hk.le] at hx

end

/-- The working state between two rounds of the scan, once the settings with the counts cs have been tried (R33,
R126, R127, R129). -/
structure Tried (d : BitVec 2) (cs : List Nat) (w : CalWork) : Prop where
  target : w.target = targetOf d
  threshold : w.threshold = thresholdOf (targetOf d)
  setting : w.i.toNat = cs.length
  first : cs = [] → w.bestDiff = bestDiffInit
  best : cs ≠ [] → NearestSoFar (targetOf d).toNat cs w.bestSetting.toNat w.bestCount.toNat ∧
    w.bestDiff.toNat = distance (targetOf d).toNat w.bestCount.toNat

/-- Step g, then the number of the next setting (R130). -/
def CalWork.nextRound (w : CalWork) : CalWork := { scanRecord w with i := w.i + 1 }

/-- A round that has counted n adds its setting to those tried. -/
theorem Tried.nextRound {d : BitVec 2} {cs : List Nat} {w : CalWork} {n : Nat} (h : Tried d cs w)
    (hc : w.count = BitVec.ofNat 32 n) (hn : n < 2 ^ 31) (hi : cs.length < nTune) :
    Tried d (cs ++ [n]) w.nextRound := by
  obtain ⟨ht, hth, hset, hfirst, hbest⟩ := h
  have hcount : w.count.toNat = n := by rw [hc, BitVec.toNat_ofNat]; omega
  obtain ⟨hdiff, hbound⟩ := diffOf_toNat d (c := w.count) (by rwa [hcount])
  rw [hcount] at hdiff
  refine ⟨(scanRecord_target w).trans ht, (scanRecord_threshold w).trans hth, ?_, by simp, fun _ => ?_⟩
  · rw [CalWork.nextRound, setting_succ_toNat (hset ▸ hi), hset, List.length_append, List.length_singleton]
  by_cases hlt : (diffOf w.target w.count).toNat < w.bestDiff.toNat
  · have hrec := scanRecord_better hlt
    have hnew : (w.i.setWidth 4).toNat = cs.length := by
      rw [nTune] at hi
      rw [BitVec.toNat_setWidth, hset]
      omega
    simp only [CalWork.nextRound, hrec, hnew, hcount, ht]
    refine ⟨nearestSoFar_better fun x hx => ?_, hdiff⟩
    obtain ⟨hnear, hold⟩ := hbest (List.ne_nil_of_mem hx)
    rw [ht, hdiff, hold] at hlt
    exact hlt.trans_le (hnear.nearest x hx)
  · rw [CalWork.nextRound, scanRecord_keeps hlt]
    rw [ht] at hlt
    obtain ⟨hnear, hold⟩ := hbest fun he => hlt (hfirst he ▸ lt_bestDiffInit hbound)
    rw [hdiff, hold] at hlt
    exact ⟨hnear.keeps (Nat.le_of_not_lt hlt), hold⟩

end Sys2Proof.Machine
end

/-! ## The scan of CALRES (R130) -/

section
namespace Sys2Proof.Machine

/-! ### A writeField on a sensor that grants it -/

/-- The byte that a granted read of address a returns (R53, R54). -/
def Sensor.byteFor (m : Sensor) (a : Addr) (x : Draw) : Byte := (m.readAnswer a x).getD 0

theorem Sensor.readAnswer_of_grants {m : Sensor} {x : Draw} (h : m.grants x = true) (a : Addr) :
    m.readAnswer a x = some (m.byteFor a x) := by
  have hs : (m.readAnswer a x).isSome = true := (m.readAnswer_isSome a x).trans h
  obtain ⟨b, hb⟩ := Option.isSome_iff_exists.1 hs
  rw [byteFor, hb, Option.getD_some]

/-- The byte that writeField writes when the draw x answers its read (R102). -/
def Sensor.merged (m : Sensor) (g : RegField) (v : Byte) (x : Draw) : Byte :=
  insertField g.mask v (m.byteFor g.addr x)

/-- The sensor after the writeField. -/
def Sensor.put (m : Sensor) (g : RegField) (v : Byte) (x : Draw) : Sensor := m.store g.addr (m.merged g v x)

/-- The two events of the writeField. -/
def Sensor.putEvents (m : Sensor) (g : RegField) (v : Byte) (x : Draw) : List Event :=
  [.rd g.addr (some (m.byteFor g.addr x)), .wr g.addr (m.merged g v x) true]

@[simp] theorem Sensor.grants_put (m : Sensor) (g : RegField) (v : Byte) (x y : Draw) :
    (m.put g v x).grants y = m.grants y := m.store_writeAnswer _ _ y

/-- A writeField whose two draws are granted, its byte that of the draw x. -/
theorem leads_put {at_ : Rmw → Running} {w : CalWork} {m : Sensor} {tr : List Event} {s : State} {x y : Draw}
    {g : RegField} {v : Byte} {k : State → State}
    (ha : ∀ q m tr, action (at_ q) (standing (at_ q) w m tr s) = writeField g v q at_ k)
    (hx : m.grants x = true) (hy : m.grants y = true) :
    Leads (standing (at_ .read) w m tr s) [x, y]
      (k (standing (at_ (.write (m.byteFor g.addr x))) w (m.put g v x) (tr ++ m.putEvents g v x) s)) :=
  leads_writeField ha (Sensor.readAnswer_of_grants hx _) hy rfl

/-! ### The points of a round -/

/-- Where CALRES stands after n rounds: before the next one, or before step 3 (R130). -/
def scanPoint (n : Nat) : ResPoint := if n < nTune then .tune .read else .best .read

/-- The working state as step 1 leaves it (R130). -/
def CalWork.scanStart (d : BitVec 2) (w : CalWork) : CalWork :=
  { w with
    target := targetOf d
    threshold := thresholdOf (targetOf d)
    bestSetting := 0
    bestDiff := bestDiffInit
    bestCount := 0
    i := 0 }

theorem tried_scanStart (d : BitVec 2) (w : CalWork) : Tried d [] (w.scanStart d) :=
  ⟨rfl, rfl, rfl, fun _ => rfl, fun h => absurd rfl h⟩

section
variable {d : BitVec 2} {r : Running} {w : CalWork} {m : Sensor} {tr : List Event} {s : State} {x y : Draw}

theorem scanInit_standing : scanInit d (standing r w m tr s) = standing r (w.scanStart d) m tr s := rfl

theorem scanNext_standing :
    scanNext d (standing r w m tr s) =
      standing (.calres d (scanPoint (w.i.toNat + 1))) w.nextRound m tr s := by
  unfold scanPoint
  split
  · exact scanNext_goes_on ‹_›
  · exact scanNext_ends ‹_›

theorem leads_calres_power {b : Byte} (hx : m.readAnswer 0x00 x = some b) (hb : b &&& 0x01 = 0) :
    Leads (standing (.calres d .power) w m tr s) [x]
      (standing (.calres d (.div .read)) w m (tr ++ [.rd 0x00 (some b)]) s) := leads_checkPowered rfl hx hb

theorem leads_settleB :
    Leads (standing (.calres d .settleB) w m tr s) [x]
      (standing (.calres d (.showLco .read)) w m (tr ++ [.dly s.config.tuneSettleB]) s) := leads_perform rfl

theorem leads_settleD :
    Leads (standing (.calres d .settleD) w m tr s) [x]
      (standing (.calres d .windowStart) w m (tr ++ [.dly s.config.tuneSettleD]) s) := leads_perform rfl

variable (hx : m.grants x = true) (hy : m.grants y = true)
include hx hy

theorem leads_div :
    Leads (standing (.calres d (.div .read)) w m tr s) [x, y]
      (standing (.calres d (.tune .read)) (w.scanStart d) (m.put fDivRatio (d.setWidth 8) x)
        (tr ++ m.putEvents fDivRatio (d.setWidth 8) x) s) := by
  have h := leads_put (at_ := fun q => .calres d (.div q)) (w := w) (tr := tr) (s := s)
    (k := fun s => goOn (.calres d (.tune .read)) (scanInit d s)) (fun _ _ _ => rfl) hx hy
  simpa only [scanInit_standing, goOn_standing] using h

theorem leads_tune {n : Nat} (hn : w.i.toNat = n) :
    Leads (standing (.calres d (.tune .read)) w m tr s) [x, y]
      (standing (.calres d .settleB) w (m.put fTuneCap (BitVec.ofNat 8 n) x)
        (tr ++ m.putEvents fTuneCap (BitVec.ofNat 8 n) x) s) := by
  have hi : BitVec.ofNat 8 n = w.i.setWidth 8 := hn ▸ BitVec.ofNat_toNat 8 w.i
  rw [hi]
  exact leads_put (at_ := fun q => .calres d (.tune q)) (g := fTuneCap) (v := w.i.setWidth 8)
    (k := goOn (.calres d .settleB)) (fun _ _ _ => rfl) hx hy

theorem leads_showLco :
    Leads (standing (.calres d (.showLco .read)) w m tr s) [x, y]
      (standing (.calres d .settleD) w (m.put fDispLco 1 x) (tr ++ m.putEvents fDispLco 1 x) s) :=
  leads_put (at_ := fun q => .calres d (.showLco q)) (fun _ _ _ => rfl) hx hy

theorem leads_hideLco :
    Leads (standing (.calres d (.hideLco .read)) w m tr s) [x, y]
      (standing (.calres d (scanPoint (w.i.toNat + 1))) w.nextRound (m.put fDispLco 0 x)
        (tr ++ m.putEvents fDispLco 0 x) s) := by
  rw [← scanNext_standing]
  exact leads_put (at_ := fun q => .calres d (.hideLco q)) (fun _ _ _ => rfl) hx hy

end

/-! ### A round, and all of them -/

/-- The sensor after the round at setting i. -/
def ScanRound.sensor (i : Nat) (r : ScanRound) (m : Sensor) : Sensor :=
  ((m.put fTuneCap (BitVec.ofNat 8 i) r.aRd).put fDispLco 1 r.cRd).put fDispLco 0 r.fRd

/-- The events of the round at setting i on the sensor m. -/
def ScanRound.eventsOn (c : Config) (i : Nat) (r : ScanRound) (m : Sensor) : List Event :=
  m.putEvents fTuneCap (BitVec.ofNat 8 i) r.aRd ++ [.dly c.tuneSettleB] ++
    (m.put fTuneCap (BitVec.ofNat 8 i) r.aRd).putEvents fDispLco 1 r.cRd ++ [.dly c.tuneSettleD] ++ r.e.events c ++
    ((m.put fTuneCap (BitVec.ofNat 8 i) r.aRd).put fDispLco 1 r.cRd).putEvents fDispLco 0 r.fRd

/-- The working state after the round. -/
def ScanRound.work (c : Config) (r : ScanRound) (w : CalWork) : CalWork := (r.e.work c w).nextRound

/-- A round that meets no error, as `ScanAnswers.complete` has it. -/
def ScanRound.complete (c : Config) (m : Sensor) (r : ScanRound) : Bool :=
  r.granted m && r.e.closes && decide (r.e.count c < 2 ^ 31)

/-- What a round stores changes no later grant. -/
theorem ScanRound.complete_sensor (c : Config) (i : Nat) (q r : ScanRound) (m : Sensor) :
    r.complete c (q.sensor i m) = r.complete c m := by
  simp [complete, granted, sensor]

/-- A round that meets no error, at setting n (R130, steps a to g). -/
theorem leads_round {d : BitVec 2} {w : CalWork} {m : Sensor} {tr : List Event} {s : State} {r : ScanRound} {n : Nat}
    (hr : r.complete s.config m = true) (hn : w.i.toNat = n) :
    Leads (standing (.calres d (.tune .read)) w m tr s) r.answers
      (standing (.calres d (scanPoint (n + 1))) (r.work s.config w) (r.sensor n m)
        (tr ++ r.eventsOn s.config n m) s) := by
  simp only [ScanRound.complete, ScanRound.granted, Bool.and_eq_true, decide_eq_true_eq, and_assoc] at hr
  obtain ⟨haRd, haWr, hcRd, hcWr, hfRd, hfWr, hcloses, hcount⟩ := hr
  have ha := leads_tune (d := d) (w := w) (tr := tr) (s := s) haRd haWr hn
  have hb := ha.trans (leads_settleB (x := r.b))
  have hc := hb.trans (leads_showLco (x := r.cRd) (y := r.cWr) (by simpa) (by simpa))
  have hd := hc.trans (leads_settleD (x := r.d))
  have he := hd.trans (leads_window hcloses hcount)
  have hf := he.trans (leads_hideLco (x := r.fRd) (y := r.fWr) (by simpa) (by simpa))
  have hi : (r.e.work s.config w).i.toNat = n := hn
  rw [hi] at hf
  simpa [ScanRound.answers, ScanRound.eventsOn, ScanRound.sensor, ScanRound.work] using hf

/-- The sensor after the rounds from setting i on. -/
def roundsSensor : Nat → List ScanRound → Sensor → Sensor
  | _, [], m => m
  | i, r :: rest, m => roundsSensor (i + 1) rest (r.sensor i m)

/-- The events of the rounds from setting i on, on the sensor m. -/
def roundsEventsOn (c : Config) : Nat → List ScanRound → Sensor → List Event
  | _, [], _ => []
  | i, r :: rest, m => r.eventsOn c i m ++ roundsEventsOn c (i + 1) rest (r.sensor i m)

/-- The working state after the rounds. -/
def roundsWork (c : Config) : List ScanRound → CalWork → CalWork
  | [], w => w
  | r :: rest, w => roundsWork c rest (r.work c w)

section
variable {d : BitVec 2} {s : State}

/-- The rounds that are left after those with the counts cs, up to step 3, and what the scan has then chosen. -/
theorem leads_rounds {rounds : List ScanRound} {cs : List Nat} {w : CalWork} {m : Sensor} {tr : List Event}
    (hr : ∀ r ∈ rounds, r.complete s.config m = true) (hw : Tried d cs w)
    (hlen : cs.length + rounds.length = nTune) :
    Leads (standing (.calres d (scanPoint cs.length)) w m tr s) (roundsAnswers rounds)
      (standing (.calres d (.best .read)) (roundsWork s.config rounds w) (roundsSensor cs.length rounds m)
        (tr ++ roundsEventsOn s.config cs.length rounds m) s) ∧
    Tried d (cs ++ rounds.map fun r => r.e.count s.config) (roundsWork s.config rounds w) := by
  induction rounds generalizing cs w m tr with
  | nil =>
    have hp : scanPoint cs.length = .best .read := if_neg (by simpa using hlen.ge)
    rw [hp, roundsEventsOn, List.append_nil, List.map_nil, List.append_nil]
    exact ⟨fun _ => rfl, hw⟩
  | cons r rest ih =>
    rw [List.forall_mem_cons] at hr
    obtain ⟨hr, hrest⟩ := hr
    have hi : cs.length < nTune := by rw [List.length_cons] at hlen; omega
    have hp : scanPoint cs.length = .tune .read := if_pos hi
    have hn : r.e.count s.config < 2 ^ 31 := by
      simp only [ScanRound.complete, Bool.and_eq_true, decide_eq_true_eq] at hr
      exact hr.2
    have hw' : Tried d (cs ++ [r.e.count s.config]) (r.work s.config w) :=
      Tried.nextRound (w := r.e.work s.config w) ⟨hw.target, hw.threshold, hw.setting, hw.first, hw.best⟩ rfl hn hi
    have hlen' : (cs ++ [r.e.count s.config]).length + rest.length = nTune := by
      rw [List.length_cons] at hlen
      rw [List.length_append, List.length_singleton]
      omega
    have hround := leads_round (d := d) (tr := tr) hr hw.setting
    obtain ⟨hleads, htried⟩ := ih (tr := tr ++ r.eventsOn s.config cs.length m) (m := r.sensor cs.length m)
      (fun q hq => (ScanRound.complete_sensor ..).trans (hrest q hq)) hw' hlen'
    rw [List.length_append, List.length_singleton] at hleads
    rw [hp, roundsEventsOn, ← List.append_assoc]
    exact ⟨hround.trans hleads, by simpa [roundsWork] using htried⟩

end

end Sys2Proof.Machine
end

/-! ## A CALRES that meets no error: the selection and the registers -/

section
namespace Sys2Proof.Machine

/-- The machine s after a CALRES that has reported the best setting of the working state w (R127, R130): its verdict
is that of the difference and the threshold. -/
def reported (w : CalWork) (m : Sensor) (tr : List Event) (rest : List Input) (s : State) : State :=
  { s with
    status := endStatus (if w.bestDiff.toNat < w.threshold.toNat then .ok else .calFail) s.status
    calSetting := w.bestSetting
    calCount := w.bestCount
    calDiff := w.bestDiff
    calSuccess := decide (w.bestDiff.toNat < w.threshold.toNat)
    phase := .idle
    work := w
    inputs := rest
    sensor := m
    trace := tr }

theorem scanVerdict_standing (d : BitVec 2) (r : Running) (w : CalWork) (m : Sensor) (tr : List Event) (s : State) :
    scanVerdict d (standing r w m tr s) = reported w m tr s.inputs s := by
  by_cases h : w.bestDiff.toNat < w.threshold.toNat
  · rw [scanVerdict_ok (by exact h)]
    simp [endCommand, standing, reported, h, Code.failsCalibration]
  · rw [scanVerdict_fail (by exact h)]
    simp [endCommand, standing, reported, h, Code.failsCalibration, isCalibration]

/-- Step 3, and the report (R130). -/
theorem leads_best {d : BitVec 2} {w : CalWork} {m : Sensor} {tr : List Event} {s : State} {x y : Draw} {k : Nat}
    (hx : m.grants x = true) (hy : m.grants y = true) (hk : w.bestSetting.toNat = k) :
    Leads (standing (.calres d (.best .read)) w m tr s) [x, y]
      (reported w (m.put fTuneCap (BitVec.ofNat 8 k) x) (tr ++ m.putEvents fTuneCap (BitVec.ofNat 8 k) x)
        s.inputs s) := by
  have hv : BitVec.ofNat 8 k = w.bestSetting.setWidth 8 := hk ▸ BitVec.ofNat_toNat 8 w.bestSetting
  have h := leads_put (at_ := fun q => .calres d (.best q)) (tr := tr) (s := s) (g := fTuneCap)
    (v := w.bestSetting.setWidth 8) (k := scanVerdict d) (fun _ _ _ => rfl) hx hy
  rwa [scanVerdict_standing, ← hv] at h

/-! ### The whole command -/

/-- The sensor after a CALRES d that writes back setting k. -/
def ScanAnswers.sensor (d : BitVec 2) (k : Nat) (a : ScanAnswers) (m : Sensor) : Sensor :=
  (roundsSensor 0 a.rounds (m.put fDivRatio (d.setWidth 8) a.divRd)).put fTuneCap (BitVec.ofNat 8 k) a.bestRd

/-- Its events on the sensor m. -/
def ScanAnswers.eventsOn (c : Config) (d : BitVec 2) (k : Nat) (a : ScanAnswers) (m : Sensor) : List Event :=
  [.rd 0x00 (some (m.byteFor 0x00 a.power))] ++ m.putEvents fDivRatio (d.setWidth 8) a.divRd ++
    roundsEventsOn c 0 a.rounds (m.put fDivRatio (d.setWidth 8) a.divRd) ++
    (roundsSensor 0 a.rounds (m.put fDivRatio (d.setWidth 8) a.divRd)).putEvents fTuneCap (BitVec.ofNat 8 k) a.bestRd

@[simp] theorem grants_roundsSensor (rounds : List ScanRound) (i : Nat) (m : Sensor) (x : Draw) :
    (roundsSensor i rounds m).grants x = m.grants x := by
  induction rounds generalizing i m with
  | nil => rfl
  | cons r rest ih => rw [roundsSensor, ih]; simp [ScanRound.sensor]

/-- What it means that no error is met. -/
theorem ScanAnswers.complete_iff {c : Config} {m : Sensor} {a : ScanAnswers} :
    a.complete c m = true ↔
      a.rounds.length = nTune ∧ m.grants a.power = true ∧ m.grants a.divRd = true ∧ m.grants a.divWr = true ∧
      (∀ r ∈ a.rounds, r.complete c m = true) ∧ m.grants a.bestRd = true ∧ m.grants a.bestWr = true := by
  simp only [complete, ScanRound.complete, Bool.and_eq_true, beq_iff_eq, List.all_eq_true, and_assoc]

/-- A CALRES that meets no error, from its power check to its report: the setting reported is the first nearest the
target (R129, R130). -/
theorem leads_calres {d : BitVec 2} {s : State} {w : CalWork} {m : Sensor} {a : ScanAnswers} {p : Byte}
    (ha : a.complete s.config m = true) (hp : m.readAnswer 0x00 a.power = some p) (hon : p &&& 0x01 = 0) :
    ∃ w', Tried d (a.counts s.config) w' ∧
      Leads (standing (.calres d .power) w m [] s) a.answers
        (reported w' (a.sensor d w'.bestSetting.toNat m) (a.eventsOn s.config d w'.bestSetting.toNat m)
          s.inputs s) := by
  obtain ⟨hlen, -, hdivRd, hdivWr, hrounds, hbestRd, hbestWr⟩ := ScanAnswers.complete_iff.1 ha
  have hdiv := (leads_calres_power (d := d) (w := w) (tr := []) (s := s) hp hon).trans
    (leads_div (x := a.divRd) (y := a.divWr) hdivRd hdivWr)
  obtain ⟨hscan, htried⟩ := leads_rounds (rounds := a.rounds) (s := s) (m := m.put fDivRatio (d.setWidth 8) a.divRd)
    (tr := [] ++ [.rd 0x00 (some p)] ++ m.putEvents fDivRatio (d.setWidth 8) a.divRd)
    (fun r hr => by simpa [ScanRound.complete, ScanRound.granted] using hrounds r hr) (tried_scanStart d w)
    ((Nat.zero_add _).trans hlen)
  have hbest := (hdiv.trans hscan).trans
    (leads_best (x := a.bestRd) (y := a.bestWr) (by simpa) (by simpa) rfl)
  have hbyte : m.byteFor 0x00 a.power = p := by rw [Sensor.byteFor, hp, Option.getD_some]
  refine ⟨_, htried, ?_⟩
  rw [ScanAnswers.eventsOn, hbyte]
  simpa [ScanAnswers.answers, ScanAnswers.sensor] using hbest

/-- Executing CALRES on answers that meet no error: the report, the sensor and the trace (R129, R130). -/
theorem exec_calres_complete {d : BitVec 2} {s : State} {a : ScanAnswers} {p : Byte} {rest : List Input}
    (hi : s.init = true) (ha : a.complete s.config s.sensor = true)
    (hp : s.sensor.readAnswer 0x00 a.power = some p) (hon : p &&& 0x01 = 0)
    (hin : s.inputs = answering a.answers ++ rest) :
    ∃ w, Tried d (a.counts s.config) w ∧
      exec (.calres d) s =
        .next (reported w (a.sensor d w.bestSetting.toNat s.sensor)
          (a.eventsOn s.config d w.bestSetting.toNat s.sensor) rest s) := by
  obtain ⟨w, hw, hleads⟩ := leads_calres (d := d) (s := { s with status := startStatus s.status }) (w := s.work) ha
    hp hon
  refine ⟨w, hw, (busCommand_of_leads hi hin hleads rfl).trans ?_⟩
  simp [reported]

/-- A completed scan has chosen a setting, and holds its count and its difference. -/
theorem Tried.nearest {d : BitVec 2} {c : Config} {m : Sensor} {a : ScanAnswers} {w : CalWork}
    (h : Tried d (a.counts c) w) (ha : a.complete c m = true) :
    NearestSoFar (100000 / (16 * 2 ^ d.toNat)) (a.counts c) w.bestSetting.toNat w.bestCount.toNat ∧
      w.bestDiff.toNat = distance (100000 / (16 * 2 ^ d.toNat)) w.bestCount.toNat := by
  have hlen : (a.counts c).length = nTune := (List.length_map _).trans (ScanAnswers.complete_iff.1 ha).1
  rw [← targetOf_toNat]
  exact h.best fun hnil => by simp [hnil, nTune] at hlen

/-- Settles O48: the report of a scan that has tried all 16 settings. -/
theorem calresSelectsFirstNearest : Obligations.CalresSelectsFirstNearest := by
  intro d s a p rest hi ha hp hon hin
  obtain ⟨w, hw, hexec⟩ := exec_calres_complete (d := d) hi ha hp hon hin
  obtain ⟨hnear, hdiff⟩ := hw.nearest ha
  refine ⟨_, _, hnear.firstNearest, hexec, rfl, rfl, rfl, hnear.count, hdiff, ?_, ?_, rfl, rfl, rfl, rfl⟩
  · rw [← targetOf_toNat, ← thresholdOf_toNat, ← hw.threshold]
    exact decide_eq_true_iff
  · simp only [reported, decide_eq_true_eq]

end Sys2Proof.Machine
end

/-! ## A CALRES that meets no error: its events under the free oracle -/

section
namespace Sys2Proof.Machine

/-! ### The bytes written (R35, R102) -/

/-- A setting as the byte that is written. -/
theorem toNat_ofNat_setting {i : Nat} (h : i < nTune) : (BitVec.ofNat 8 i).toNat < nTune := by
  rw [nTune] at h ⊢
  rw [BitVec.toNat_ofNat]
  omega

theorem insertField_tuneCap {v : Byte} (h : v.toNat < nTune) (b : Byte) :
    insertField fTuneCap.mask v b = (b &&& 0xF0) ||| v := by
  have hv : v &&& 0x0F = v := by
    rw [nTune] at h
    revert v; decide
  have hs : maskShift 0x0F = 0 := rfl
  rw [insertField, fTuneCap, hs]
  exact congrArg _ ((congrArg (· &&& _) (BitVec.shiftLeft_zero v)).trans hv)

theorem insertField_dispLco_one (b : Byte) : insertField fDispLco.mask 1 b = b ||| 0x80 := by revert b; decide

theorem insertField_dispLco_zero (b : Byte) : insertField fDispLco.mask 0 b = b &&& 0x7F := by revert b; decide

theorem insertField_divRatio (d : BitVec 2) (b : Byte) :
    insertField fDivRatio.mask (d.setWidth 8) b = (b &&& 0x3F) ||| (d.setWidth 8 <<< 6) := by
  have hd : (d.setWidth 8 <<< 6) &&& 0xC0 = d.setWidth 8 <<< 6 := by revert d; decide
  exact congrArg ((b &&& 0x3F) ||| ·) hd

/-! ### The events -/

theorem Sensor.put_oracle (g : RegField) (v : Byte) (x : Draw) : Sensor.oracle.put g v x = .oracle := rfl

theorem Sensor.byteFor_oracle {x : Draw} (h : Sensor.oracle.grants x = true) (a : Addr) :
    Sensor.oracle.byteFor a x = x.byte := by
  simp [byteFor, readAnswer, show x.ack = true from h]

theorem Sensor.putEvents_oracle {x : Draw} (h : Sensor.oracle.grants x = true) (g : RegField) (v : Byte) :
    Sensor.oracle.putEvents g v x = [.rd g.addr (some x.byte), .wr g.addr (insertField g.mask v x.byte) true] := by
  rw [putEvents, merged, byteFor_oracle h]

/-- The events of a round, as the statement has them. -/
theorem ScanRound.eventsOn_oracle {c : Config} {i : Nat} {r : ScanRound} (hr : r.complete c .oracle = true)
    (hi : i < nTune) : r.eventsOn c i .oracle = r.events c i := by
  simp only [ScanRound.complete, ScanRound.granted, Bool.and_eq_true, and_assoc] at hr
  obtain ⟨ha, -, hc, -, hf, -⟩ := hr
  simp only [ScanRound.eventsOn, Sensor.put_oracle, Sensor.putEvents_oracle ha, Sensor.putEvents_oracle hc,
    Sensor.putEvents_oracle hf, insertField_tuneCap (toNat_ofNat_setting hi), insertField_dispLco_one,
    insertField_dispLco_zero, ScanRound.events, List.append_assoc]
  rfl

theorem roundsSensor_oracle (i : Nat) (rounds : List ScanRound) : roundsSensor i rounds .oracle = .oracle := by
  induction rounds generalizing i with
  | nil => rfl
  | cons r rest ih => exact ih (i + 1)

theorem roundsEventsOn_oracle {c : Config} {i : Nat} {rounds : List ScanRound}
    (hr : ∀ r ∈ rounds, r.complete c .oracle = true) (hi : i + rounds.length ≤ nTune) :
    roundsEventsOn c i rounds .oracle = roundsEvents c i rounds := by
  induction rounds generalizing i with
  | nil => rfl
  | cons r rest ih =>
    rw [List.forall_mem_cons] at hr
    rw [List.length_cons] at hi
    rw [roundsEventsOn, roundsEvents, ScanRound.eventsOn_oracle hr.1 (by omega)]
    exact congrArg _ (ih hr.2 (by omega))

/-- The events of the whole command, as the statement has them. -/
theorem ScanAnswers.eventsOn_oracle {c : Config} {d : BitVec 2} {k : Nat} {a : ScanAnswers}
    (ha : a.complete c .oracle = true) (hk : k < nTune) : a.eventsOn c d k .oracle = a.events c d k := by
  obtain ⟨hlen, hpower, hdiv, -, hrounds, hbest, -⟩ := ScanAnswers.complete_iff.1 ha
  rw [ScanAnswers.eventsOn, Sensor.byteFor_oracle hpower, Sensor.put_oracle, Sensor.putEvents_oracle hdiv,
    roundsSensor_oracle, Sensor.putEvents_oracle hbest, roundsEventsOn_oracle hrounds (by omega), insertField_divRatio,
    insertField_tuneCap (toNat_ofNat_setting hk)]
  simp only [ScanAnswers.events, List.append_assoc]
  rfl

/-! ### Their number -/

section
variable {p : Event → Bool} {c : Config}

/-- A window has clock reads and pin samples only (R123). -/
theorem filter_windowEvents (hclk : ∀ t, p (.clk t) = false) (hpin : ∀ l, p (.pin l) = false) (v : Window) :
    (v.events c).filter p = [] := by
  have hloops : ∀ loops, (loopEvents c loops).filter p = [] := fun loops => by
    induction loops with
    | nil => rfl
    | cons l rest ih => simp [loopEvents, hclk, hpin, ih]
  simp [Window.events, hclk, hpin, hloops]

theorem length_filter_roundsEvents {n : Nat} (h : ∀ i r, ((ScanRound.events c i r).filter p).length = n) (i : Nat)
    (rounds : List ScanRound) : ((roundsEvents c i rounds).filter p).length = rounds.length * n := by
  induction rounds generalizing i with
  | nil => rw [roundsEvents, List.filter_nil, List.length_nil, List.length_nil, Nat.zero_mul]
  | cons r rest ih =>
    rw [roundsEvents, List.filter_append, List.length_append, h, ih, List.length_cons, Nat.succ_mul, Nat.add_comm]

end

/-- Six transactions a round (R130). -/
theorem transactions_round (c : Config) (i : Nat) (r : ScanRound) :
    ((r.events c i).filter Event.isTransaction).length = 6 := by
  have hw := filter_windowEvents (c := c) (p := Event.isTransaction) (fun _ => rfl) (fun _ => rfl) r.e
  simp only [ScanRound.events, List.filter_cons, List.filter_append, hw]
  rfl

/-- Two delays a round (R130). -/
theorem delays_round (c : Config) (i : Nat) (r : ScanRound) : ((r.events c i).filter Event.isDelay).length = 2 := by
  have hw := filter_windowEvents (c := c) (p := Event.isDelay) (fun _ => rfl) (fun _ => rfl) r.e
  simp only [ScanRound.events, List.filter_cons, List.filter_append, hw]
  rfl

/-- Settles O49: under the free oracle every event carries its draw's byte, and a round has six transactions and two
delays. -/
theorem calresEvents : Obligations.CalresEvents := by
  intro d s a rest hi hs ha hon hin
  obtain ⟨hlen, hgrant, -⟩ := ScanAnswers.complete_iff.1 ha
  have hread : s.sensor.readAnswer 0x00 a.power = some a.power.byte := by
    rw [hs, Sensor.readAnswer_of_grants hgrant, Sensor.byteFor_oracle hgrant]
  obtain ⟨w, hw, hexec⟩ := exec_calres_complete (d := d) hi (hs ▸ ha) hread hon hin
  obtain ⟨hnear, -⟩ := hw.nearest ha
  have htrace : a.eventsOn s.config d w.bestSetting.toNat s.sensor = a.events s.config d w.bestSetting.toNat :=
    hs ▸ ScanAnswers.eventsOn_oracle ha w.bestSetting.isLt
  refine ⟨_, _, hnear.firstNearest, hexec, htrace, ?_, ?_⟩
  · rw [reported, htrace]
    simp [ScanAnswers.events, List.filter_cons, Event.isTransaction,
      length_filter_roundsEvents (transactions_round s.config), hlen, nTune]
  · rw [reported, htrace]
    simp [ScanAnswers.events, Event.isDelay, length_filter_roundsEvents (delays_round s.config), hlen, nTune]

end Sys2Proof.Machine
end

/-! ## A CALRES that meets no error: what it leaves in SIM -/

section
namespace Sys2Proof.Machine

/-- A writeField under SIM (R54, R102). -/
def Memory.put (mem : Memory) (g : RegField) (v : Byte) : Memory :=
  mem.write g.addr (insertField g.mask v (mem.read g.addr))

theorem Sensor.put_sim (mem : Memory) (g : RegField) (v : Byte) (x : Draw) :
    (Sensor.sim mem).put g v x = .sim (mem.put g v) := rfl

theorem Memory.put_wf {mem : Memory} (h : mem.wf = true) (g : RegField) (v : Byte) : (mem.put g v).wf = true :=
  Memory.write_wf _ _ h

theorem Memory.read_put_same {mem : Memory} (h : mem.wf = true) (g : RegField) (v : Byte) :
    (mem.put g v).read g.addr = insertField g.mask v (mem.read g.addr) := Memory.read_write_same h _ _

theorem Memory.read_put_other {mem : Memory} (h : mem.wf = true) {g : RegField} {a : Addr} (ha : a ≠ g.addr)
    (v : Byte) : (mem.put g v).read a = mem.read a :=
  (Memory.read_write_from _ _ a h).trans (if_neg ha)

/-- What the scan keeps of SIM: every byte but 0x08, and of that one the bits outside TUNE_CAP and DISP_LCO (R35,
R130). -/
structure TuningOnly (mem mem' : Memory) : Prop where
  wf : mem'.wf = true
  other : ∀ a : Addr, a ≠ 0x08 → mem'.read a = mem.read a
  rest : mem'.read 0x08 &&& 0x70 = mem.read 0x08 &&& 0x70

theorem TuningOnly.refl {mem : Memory} (h : mem.wf = true) : TuningOnly mem mem := ⟨h, fun _ _ => rfl, rfl⟩

/-- A writeField of a field of 0x08 that is one of the two. -/
theorem TuningOnly.put {mem mem' : Memory} (h : TuningOnly mem mem') {g : RegField} (hg : g.addr = 0x08)
    (hm : g.mask &&& 0x70 = 0) (v : Byte) : TuningOnly mem (mem'.put g v) where
  wf := Memory.put_wf h.wf g v
  other a ha := (Memory.read_put_other h.wf (hg ▸ ha) v).trans (h.other a ha)
  rest := by
    rw [← h.rest, ← hg, Memory.read_put_same h.wf, insertField_and_of_disjoint hm]

/-- A round leaves DISP_LCO at 0 (R125). -/
theorem ScanRound.sensor_sim {mem mem' : Memory} (h : TuningOnly mem mem') (i : Nat) (r : ScanRound) :
    ∃ mem'' : Memory, r.sensor i (.sim mem') = .sim mem'' ∧ TuningOnly mem mem'' ∧ mem''.read 0x08 &&& 0x80 = 0 := by
  have hshow := (h.put (g := fTuneCap) rfl rfl (BitVec.ofNat 8 i)).put (g := fDispLco) rfl rfl 1
  refine ⟨_, rfl, hshow.put (g := fDispLco) rfl rfl 0, ?_⟩
  exact (congrArg (· &&& _) (Memory.read_put_same hshow.wf fDispLco 0)).trans (insertField_and_mask 0x80 0 _)

theorem roundsSensor_sim {mem : Memory} {rounds : List ScanRound} {i : Nat} {mem' : Memory} (h : TuningOnly mem mem')
    (hlco : rounds = [] → mem'.read 0x08 &&& 0x80 = 0) :
    ∃ mem'' : Memory, roundsSensor i rounds (.sim mem') = .sim mem'' ∧ TuningOnly mem mem'' ∧
      mem''.read 0x08 &&& 0x80 = 0 := by
  induction rounds generalizing i mem' with
  | nil => exact ⟨mem', rfl, h, hlco rfl⟩
  | cons r rest ih =>
    obtain ⟨mem₁, hs, h₁, hlco₁⟩ := ScanRound.sensor_sim h i r
    rw [roundsSensor, hs]
    exact ih h₁ fun _ => hlco₁

/-- The bits of 0x08 outside TUNE_CAP are those outside both fields once DISP_LCO is 0. -/
theorem and_F0_of_lco_clear {x o : Byte} (hrest : x &&& 0x70 = o &&& 0x70) (hlco : x &&& 0x80 = 0) :
    x &&& 0xF0 = o &&& 0x70 := by
  have hsplit : (0xF0 : Byte) = 0x70 ||| 0x80 := rfl
  rw [hsplit, BitVec.and_or_distrib_left, hrest, hlco]
  exact BitVec.or_zero

/-- SIM after the whole command: step 1 writes DIV_RATIO, the rounds keep the rest of SIM and clear DISP_LCO, and
step 3 writes TUNE_CAP (R125, R131). -/
theorem ScanAnswers.sensor_sim {a : ScanAnswers} (ha : a.rounds ≠ []) {mem : Memory} (hwf : mem.wf = true)
    (d : BitVec 2) {k : Nat} (hk : k < nTune) :
    ∃ mem' : Memory, a.sensor d k (.sim mem) = .sim mem' ∧
      mem'.read 0x08 = (mem.read 0x08 &&& 0x70) ||| BitVec.ofNat 8 k ∧
      mem'.read 0x03 = (mem.read 0x03 &&& 0x3F) ||| (d.setWidth 8 <<< 6) ∧
      ∀ x : Addr, x ≠ 0x03 → x ≠ 0x08 → mem'.read x = mem.read x := by
  obtain ⟨mem', hmem', hscan, hlco⟩ := roundsSensor_sim (rounds := a.rounds) (i := 0)
    (.refl (Memory.put_wf hwf fDivRatio (d.setWidth 8))) fun hnil => absurd hnil ha
  have hother {x : Addr} (hx : x ≠ 0x08) :
      (mem'.put fTuneCap (BitVec.ofNat 8 k)).read x = (mem.put fDivRatio (d.setWidth 8)).read x :=
    (Memory.read_put_other (g := fTuneCap) hscan.wf hx _).trans (hscan.other x hx)
  have hrest := hscan.rest
  rw [Memory.read_put_other hwf (by decide)] at hrest
  refine ⟨mem'.put fTuneCap (BitVec.ofNat 8 k), ?_, ?_, ?_, fun x hx3 hx8 => ?_⟩
  · rw [ScanAnswers.sensor, Sensor.put_sim, hmem', Sensor.put_sim]
  · rw [← and_F0_of_lco_clear hrest hlco, ← insertField_tuneCap (toNat_ofNat_setting hk)]
    exact Memory.read_put_same hscan.wf fTuneCap _
  · rw [hother (by decide), ← insertField_divRatio]
    exact Memory.read_put_same hwf fDivRatio _
  · rw [hother hx8]
    exact Memory.read_put_other (g := fDivRatio) hwf hx3 _

/-- Settles O50: the report after a scan of 16 rounds, and what that scan leaves in SIM. -/
theorem calresLeavesBestWritten : Obligations.CalresLeavesBestWritten := by
  intro d s mem a rest hi hs hwf ha hon hin
  obtain ⟨w, -, hexec⟩ := exec_calres_complete (d := d) hi (hs ▸ ha) (hs ▸ rfl) hon hin
  have hrounds : a.rounds ≠ [] := fun hnil => by simpa [hnil, nTune] using (ScanAnswers.complete_iff.1 ha).1
  obtain ⟨mem', hmem', h8, h3, hother⟩ := ScanAnswers.sensor_sim hrounds hwf d w.bestSetting.isLt
  rw [hs, hmem'] at hexec
  rw [BitVec.ofNat_toNat] at h8
  refine ⟨_, hexec, ?_, h8, h3, hother⟩
  exact (ite_eq_or_eq _ _ _).imp (fun h => (endStatus_code _ _).trans (congrArg _ h))
    fun h => (endStatus_code _ _).trans (congrArg _ h)

end Sys2Proof.Machine
end

/-! ## Proofs of the family 43_facade.md: how a command that is led to its end leaves the machine -/

section
namespace Sys2Proof.Machine

section
variable {r : Running} {w : CalWork} {m : Sensor} {tr : List Event} {s : State} {x : Draw} {a : Addr} {b : Byte}

/-- A read answered Err (R176). -/
theorem leads_rd_err {k : Byte → State → State} (ha : action r (standing r w m tr s) = .rd a k)
    (hx : m.readAnswer a x = none) :
    Leads (standing r w m tr s) [x]
      (endCommand (some r.op) .transportError (standing r w m (tr ++ [.rd a none]) s)) := by
  apply leads_perform
  rw [perform, ha, perform_rd_err _ _ _ hx, record_standing]

/-- A readField whose read is granted: the command goes on with the field's value v (R101). -/
theorem leads_readField {g : RegField} {v : Byte} {at_ : Byte → Running}
    (ha : action r (standing r w m tr s) = readField g fun x => goOn (at_ x))
    (hx : m.readAnswer g.addr x = some b) (hv : extractField g.mask b = v) :
    Leads (standing r w m tr s) [x] (standing (at_ v) w m (tr ++ [.rd g.addr (some b)]) s) :=
  leads_rd ha hx (hv ▸ rfl)

/-- A write answered Err (R176). -/
theorem leads_wr_err {k : State → State} (ha : action r (standing r w m tr s) = .wr a b k)
    (hx : m.writeAnswer x = false) :
    Leads (standing r w m tr s) [x]
      (endCommand (some r.op) .transportError (standing r w m (tr ++ [.wr a b false]) s)) := by
  apply leads_perform
  rw [perform, ha, perform_wr_err _ _ _ hx, record_standing]

end

/-- A command that is no calibration, led by its answers to its end with the code c: of the block's registers it has
written RESULT, with v, and STATUS. -/
theorem busCommand_ends {op : Instr} {r r' : Running} {s : State} {ds : List Draw} {rest : List Input} {c : Code}
    {v : Word} {m : Sensor} {tr : List Event} (hop : isCalibration op = false) (hi : s.init = true)
    (hin : s.inputs = answering ds ++ rest)
    (h : Leads (standing r s.work s.sensor [] { s with status := startStatus s.status }) ds
      (endCommand (some op) c
        (standing r' s.work m tr { s with status := startStatus s.status, result := v }))) :
    busCommand r s = .next (ended c tr rest { s with result := v, sensor := m }) := by
  rw [busCommand_of_leads hi hin h rfl]
  simp [endCommand, standing, ended, hop]

end Sys2Proof.Machine
end

/-! ## RDENERGY -/

section
namespace Sys2Proof.Machine

/-! ### The energy (R150) -/

/-- The three fields stand side by side in the energy. -/
theorem energy_toNat (lo mi hi : Byte) :
    (energy lo mi hi).toNat = lo.toNat + mi.toNat * 2 ^ 8 + hi.toNat * 2 ^ 16 := by
  have hword : energy lo mi hi = 0#8 ++ hi ++ mi ++ lo := by
    apply BitVec.eq_of_getLsbD_eq
    intro i hlt
    simp only [energy, BitVec.getLsbD_append, BitVec.getLsbD_or, BitVec.getLsbD_shiftLeft, BitVec.getLsbD_setWidth]
    grind
  rw [hword]
  simp only [toNat_append_mul, BitVec.toNat_ofNat]
  omega

/-- The field ENERGY_MM is bits 3:0 (R35). -/
theorem extractField_energyMM_toNat (b : Byte) : (extractField fEnergyMM.mask b).toNat = b.toNat % 16 := by
  revert b; decide

/-- Bits 7:4 of the byte at 0x06 are masked off, which keeps the energy to 20 bits. -/
theorem energy_le (lo mi b : Byte) : (energy lo mi (extractField fEnergyMM.mask b)).toNat ≤ 1048575 := by
  rw [energy_toNat, extractField_energyMM_toNat]
  omega

/-! ### The three reads -/

section
variable {w : CalWork} {m : Sensor} {tr : List Event} {s : State} {d : Draw} {b lo mi : Byte}

theorem leads_energy_lsb (h : m.readAnswer 0x04 d = some b) :
    Leads (standing (.rdenergy .lsb) w m tr s) [d]
      (standing (.rdenergy (.msb b)) w m (tr ++ [.rd 0x04 (some b)]) s) :=
  leads_readField (g := fEnergyL) (at_ := fun lo => .rdenergy (.msb lo)) rfl h (extractField_ones b)

theorem leads_energy_msb (h : m.readAnswer 0x05 d = some b) :
    Leads (standing (.rdenergy (.msb lo)) w m tr s) [d]
      (standing (.rdenergy (.mmsb lo b)) w m (tr ++ [.rd 0x05 (some b)]) s) :=
  leads_readField (g := fEnergyM) (at_ := fun mi => .rdenergy (.mmsb lo mi)) rfl h (extractField_ones b)

/-- The last read ends the command with the energy in RESULT. -/
theorem leads_energy_mmsb (h : m.readAnswer 0x06 d = some b) :
    Leads (standing (.rdenergy (.mmsb lo mi)) w m tr s) [d]
      (endCommand (some .rdenergy) .ok
        (standing (.rdenergy (.mmsb lo mi)) w m (tr ++ [.rd 0x06 (some b)])
          { s with result := energy lo mi (extractField fEnergyMM.mask b) })) :=
  leads_rd rfl h rfl

end

/-- Settles O40: the reads in order up to the first that fails, and the energy of the three fields. -/
theorem rdenergyMeaning : Obligations.RdenergyMeaning := by
  refine ⟨rfl, fun s hi => busCommand_notInit hi _, fun s d1 d2 d3 rest hi =>
    ⟨fun x y z hin hx hy hz => ⟨energy x y (extractField fEnergyMM.mask z), ?_, energy_le x y z, ?_⟩,
      fun hin hx => ?_, fun x hin hx hy => ?_, fun x y hin hx hy hz => ?_⟩⟩
  · rw [energy_toNat, extractField_energyMM_toNat]
  · exact busCommand_ends rfl hi hin
      (((leads_energy_lsb hx).trans (leads_energy_msb hy)).trans (leads_energy_mmsb hz))
  · exact busCommand_ends (ds := [d1]) rfl hi hin (leads_rd_err rfl hx)
  · exact busCommand_ends rfl hi hin ((leads_energy_lsb hx).trans (leads_rd_err rfl hy))
  · exact busCommand_ends rfl hi hin
      (((leads_energy_lsb hx).trans (leads_energy_msb hy)).trans (leads_rd_err rfl hz))

end Sys2Proof.Machine
end

/-! ## RSTDEF -/

section
namespace Sys2Proof.Machine

section
variable {w : CalWork} {m : Sensor} {tr : List Event} {s : State} {d : Draw} {b : Byte}

theorem leads_preset_read (h : m.readAnswer 0x3C d = some b) :
    Leads (standing (.rstdef (.trigger .read)) w m tr s) [d]
      (standing (.rstdef (.trigger (.write b))) w m (tr ++ [.rd 0x3C (some b)]) s) := leads_rd rfl h rfl

/-- The direct command is the whole byte, so what was read does not show in it. -/
theorem action_preset_write (s : State) :
    action (.rstdef (.trigger (.write b))) s = .wr 0x3C 0x96 (goOn (.rstdef .settle)) :=
  congrArg (Action.wr 0x3C · (goOn (.rstdef .settle))) (insertField_ones directCmd b)

theorem leads_preset_write (h : m.writeAnswer d = true) :
    Leads (standing (.rstdef (.trigger (.write b))) w m tr s) [d]
      (standing (.rstdef .settle) w (m.store 0x3C 0x96) (tr ++ [.wr 0x3C 0x96 true]) s) :=
  fun xs => run_wr rfl (action_preset_write _) h xs

/-- The settle delay ends the command (R8). -/
theorem leads_preset_settle :
    Leads (standing (.rstdef .settle) w m tr s) [d]
      (endCommand (some .rstdef) .ok (standing (.rstdef .settle) w m (tr ++ [.dly 2000]) s)) := leads_perform rfl

end

/-- Settles O41: the read, the write of the direct command and the delay, up to the first transaction that fails. -/
theorem rstdefMeaning : Obligations.RstdefMeaning := by
  refine ⟨rfl, fun s hi => busCommand_notInit hi _, fun s d1 d2 d3 rest hi =>
    ⟨fun x hin hx hw => ?_, fun hin hx => ?_, fun x hin hx hw => ?_⟩⟩
  · exact busCommand_ends rfl hi hin
      (((leads_preset_read hx).trans (leads_preset_write hw)).trans (leads_preset_settle (d := d3)))
  · exact busCommand_ends (ds := [d1]) rfl hi hin (leads_rd_err rfl hx)
  · exact busCommand_ends rfl hi hin ((leads_preset_read hx).trans (leads_wr_err (action_preset_write _) hw))

end Sys2Proof.Machine
end

/-! ## Proofs of the family 60_exceptions.md: ending a command, and every step -/

section
namespace Sys2Proof.Machine

/-- Settles O26: the code that a command's effect names is the one in STATUS. -/
theorem codesByCommand : Obligations.CodesByCommand := by
  intro i s t h hp
  obtain ⟨c, he⟩ := (exec_effect h).of_idle hp
  exact ⟨c, he.code, (he.code_iff c).2 rfl⟩

/-- Settles O13: the step is total job by job, and the execution of a command is too. -/
theorem everyStepHasNextState : Obligations.EveryStepHasNextState := by
  intro s
  unfold step
  cases nextJob s with
  | reset reached rest => exact ⟨_, rfl⟩
  | command => exact ⟨_, rfl⟩
  | nothing => exact ⟨_, rfl⟩
  | take w rest =>
    dsimp only
    cases decode w with
    | ok i => exact exec_next i _
    | error e => exact ⟨_, rfl⟩

/-- The codes that R172 lists. -/
theorem failsCalibration_iff (c : Code) :
    c.failsCalibration = true ↔ c = .poweredDown ∨ c = .calFail ∨ c = .transportError ∨ c = .countOverflow := by
  cases c <;> decide

/-- Settles O20: the fields of `endStatus`, and the codes that fail a calibration. -/
theorem endingACommand : Obligations.EndingACommand := by
  intro op c s
  refine ⟨endStatus_code c _, endStatus_sticky c _, endStatus_busy c _, endStatus_reserved c _, ?_, _, _, rfl⟩
  simp [failsCalibration_iff]

/-- The code with which a command has ended is the only one in STATUS.CODE (R171). -/
theorem endCommand_code_ne {c c' : Code} (h : c ≠ c') (op : Option Instr) (s : State) :
    statusCode (endCommand op c s).status ≠ c'.bits := by
  rw [endCommand_status, endStatus_code]
  exact fun hb => h (code_bits_injective c c' hb)

/-- NOT_INIT writes STATUS and no other register, CAL_SUCCESS not even for a calibration (R173). -/
theorem endCommand_notInit (op : Option Instr) (s : State) :
    endCommand op .notInit s = { s with status := endStatus .notInit s.status, phase := .idle } := by
  simp [endCommand, Code.failsCalibration]

/-- Settles O21: of all that executing a command can be, INIT = 0 leaves the refusal to a bus command, and BEGIN and
MSHIFT end with other codes. -/
theorem notInitialised : Obligations.NotInitialised := by
  constructor
  · intro i s hbus hinit
    obtain ⟨t, ht⟩ := exec_next i s
    obtain ⟨-, hn, -⟩ | ⟨-, -, rfl⟩ | ⟨rfl, -⟩ | ⟨rfl, -⟩ | ⟨m, rfl, -⟩ := exec_cases ht
    · simp [hinit] at hn
    · rw [ht, endCommand_notInit]; rfl
    · cases hbus
    · cases hbus
    · cases hbus
  · intro i s t hbus h
    obtain ⟨hb, -⟩ | ⟨hb, -⟩ | ⟨-, -, rfl⟩ | ⟨-, -, rfl⟩ | ⟨m, -, rfl⟩ := exec_cases h
    · simp [hbus] at hb
    · simp [hbus] at hb
    · exact endCommand_code_ne (by decide) _ _
    · exact endCommand_code_ne (by decide) _ _
    · exact endCommand_code_ne (by decide) _ _

end Sys2Proof.Machine
end

/-! ## A calibration of a powered-down sensor -/

section
namespace Sys2Proof.Machine

section
variable {op : Instr} {r : Running} {s : State} {b : Byte} {x : Draw} {k : State → State}

/-- `checkPowered()` of a powered-down sensor ends the command (R120, R177). -/
theorem leads_checkPowered_off {w : CalWork} {m : Sensor} {tr : List Event}
    (ha : action r (standing r w m tr s) = checkPowered op k) (hx : m.readAnswer 0x00 x = some b)
    (hb : b &&& 0x01 = 1) :
    Leads (standing r w m tr s) [x]
      (endCommand (some op) .poweredDown (standing r w m (tr ++ [.rd 0x00 (some b)]) s)) := by
  have hoff : extractField fPowerDown.mask b = 1 := by rw [extractField_powerDown, hb]
  exact leads_rd ha hx (if_pos hoff)

/-- A calibration that begins with `checkPowered()` and finds the sensor powered down. -/
theorem busCommand_poweredDown {rest : List Input} (hop : isCalibration op = true) (hi : s.init = true)
    (hin : s.inputs = .answer x :: rest) (ha : ∀ u, action r u = checkPowered op k)
    (hx : s.sensor.readAnswer 0x00 x = some b) (hb : b &&& 0x01 = 1) :
    busCommand r s = .next (ended .poweredDown [.rd 0x00 (some b)] rest { s with calSuccess := false }) := by
  rw [busCommand_of_leads (ds := [x]) hi hin (leads_checkPowered_off (ha _) hx hb) rfl]
  simp [endCommand, standing, ended, hop, Code.failsCalibration]

end

/-- Settles O42: both calibrations begin with `checkPowered()`. -/
theorem poweredDownCalibration : Obligations.PoweredDownCalibration := by
  intro i s d rest b hi hinit hin hx hb
  cases i with
  | calrco => exact busCommand_poweredDown (op := .calrco) rfl hinit hin (fun _ => rfl) hx hb
  | calres q => exact busCommand_poweredDown (op := .calres q) rfl hinit hin (fun _ => rfl) hx hb
  | _ => cases hi

end Sys2Proof.Machine
end

/-! ## A failed transaction is the last event of its command -/

section
namespace Sys2Proof.Machine

/-- The command has ended with TRANSPORT_ERROR. -/
def EndedOnTransport (t : State) : Prop := t.phase = .idle ∧ statusCode t.status = Code.bits .transportError

/-- No transaction of the trace was answered Err. -/
def Unfailed (tr : List Event) : Prop := ∀ e ∈ tr, e.failed = false

/-! ### How a command goes on after an event that has not failed -/

/-- From u, where an event has been recorded, to t: no event more, and no end with TRANSPORT_ERROR. -/
structure Proceeds (u t : State) : Prop where
  trace : t.trace = u.trace
  noTransportError : ¬ EndedOnTransport t

section proceeds
variable {u v t e : State}

/-- A command in execution has not ended. -/
theorem proceeds_busy {r : Running} (hp : t.phase = .exec r) (h : t.trace = u.trace) : Proceeds u t :=
  ⟨h, fun ⟨hidle, _⟩ => nomatch hp.symm.trans hidle⟩

theorem proceeds_goOn (r : Running) (h : v.trace = u.trace := by rfl) : Proceeds u (goOn r v) := proceeds_busy rfl h

theorem proceeds_end {c : Code} (op : Option Instr) (hc : c ≠ .transportError := by decide)
    (h : v.trace = u.trace := by rfl) : Proceeds u (endCommand op c v) :=
  ⟨h, fun ⟨_, hcode⟩ => endCommand_code_ne hc op v hcode⟩

theorem proceeds_ite {c : Prop} [Decidable c] (ht : Proceeds u t) (he : Proceeds u e) :
    Proceeds u (if c then t else e) := by
  split
  · exact ht
  · exact he

theorem rcoVerdict_proceeds (x y : Byte) (u : State) : Proceeds u (rcoVerdict x y u) :=
  proceeds_ite (proceeds_end _) (proceeds_end _)

theorem windowSample_proceeds (q : BitVec 2) (l : Bool) (u : State) : Proceeds u (windowSample q l u) :=
  proceeds_ite (proceeds_ite (proceeds_end _) (proceeds_goOn _)) (proceeds_goOn _)

theorem scanNext_proceeds (q : BitVec 2) (u : State) : Proceeds u (scanNext q u) :=
  proceeds_ite (proceeds_goOn _) (proceeds_goOn _)

theorem scanVerdict_proceeds (q : BitVec 2) (u : State) : Proceeds u (scanVerdict q u) :=
  proceeds_ite (proceeds_end _) (proceeds_end _)

end proceeds

/-- Whatever the answer, the command proceeds after this event unless it is a transaction answered Err. -/
def Action.ProceedsAfter : Action → Prop
  | .rd _ k => ∀ b u, Proceeds u (k b u)
  | .wr _ _ k => ∀ u, Proceeds u (k u)
  | .clk k => ∀ t u, Proceeds u (k t u)
  | .pin k => ∀ l u, Proceeds u (k l u)
  | .dly _ k => ∀ u, Proceeds u (k u)

/-! ### Every event of every command -/

theorem writeField_proceeds {g : RegField} {v : Byte} {p : Rmw} {at_ : Rmw → Running} {k : State → State}
    (hk : ∀ u, Proceeds u (k u)) : (writeField g v p at_ k).ProceedsAfter := by
  cases p with
  | read => exact fun _ _ => proceeds_goOn _
  | write b => exact hk

theorem checkPowered_proceeds (op : Instr) (r : Running) : (checkPowered op (goOn r)).ProceedsAfter :=
  fun _ _ => proceeds_ite (proceeds_end _) (proceeds_goOn _)

theorem rcoAction_proceeds (p : RcoPoint) : (rcoAction p).ProceedsAfter := by
  unfold rcoAction
  cases p with
  | power => exact checkPowered_proceeds _ _
  | settle => exact fun _ => proceeds_goOn _
  | trco => exact fun _ _ => proceeds_goOn _
  | srco x => exact fun b => rcoVerdict_proceeds x (extractField fSrcoNok.mask b)
  | _ => exact writeField_proceeds fun _ => proceeds_goOn _

theorem resAction_proceeds (q : BitVec 2) (s : State) (p : ResPoint) : (resAction q s p).ProceedsAfter := by
  unfold resAction
  cases p with
  | power => exact checkPowered_proceeds _ _
  | settleB => exact fun _ => proceeds_goOn _
  | settleD => exact fun _ => proceeds_goOn _
  | windowStart => exact fun _ _ => proceeds_goOn _
  | windowRef => exact fun _ _ => proceeds_goOn _
  | windowClock => exact fun _ _ => proceeds_ite (proceeds_goOn _) (proceeds_goOn _)
  | windowPin => exact windowSample_proceeds q
  | hideLco p => exact writeField_proceeds (scanNext_proceeds q)
  | best p => exact writeField_proceeds (scanVerdict_proceeds q)
  | _ => exact writeField_proceeds fun _ => proceeds_goOn _

theorem presetAction_proceeds (p : PresetPoint) : (presetAction p).ProceedsAfter := by
  unfold presetAction
  cases p with
  | trigger p => exact writeField_proceeds fun _ => proceeds_goOn _
  | settle => exact fun _ => proceeds_end _

theorem energyAction_proceeds (p : EnergyPoint) : (energyAction p).ProceedsAfter := by
  unfold energyAction
  cases p with
  | lsb => exact fun _ _ => proceeds_goOn _
  | msb lo => exact fun _ _ => proceeds_goOn _
  | mmsb lo mi => exact fun _ _ => proceeds_end _

/-- No command ends with TRANSPORT_ERROR of its own: only a failed transaction does that (R176). -/
theorem action_proceeds (r : Running) (s : State) : (action r s).ProceedsAfter := by
  cases r with
  | rdf a m => exact fun _ _ => proceeds_end _
  | wrf a m v p => exact writeField_proceeds fun _ => proceeds_end _
  | calrco p => exact rcoAction_proceeds p
  | calres q p => exact resAction_proceeds q s p
  | rstdef p => exact presetAction_proceeds p
  | rdenergy p => exact energyAction_proceeds p

/-! ### One event -/

/-- The one event between s and t, and whether it has failed. -/
def OneEvent (s t : State) : Prop :=
  ∃ e : Event, t.trace = s.trace ++ [e] ∧ (e.failed = true ↔ EndedOnTransport t)

/-- An answer Err ends the command with TRANSPORT_ERROR. -/
theorem oneEvent_err {e : Event} (he : e.failed = true) (op : Option Instr) (s : State) :
    OneEvent s (endCommand op .transportError (record e s)) :=
  ⟨e, rfl, fun _ => ⟨rfl, endStatus_code _ _⟩, fun _ => he⟩

/-- After any other answer, recorded in u, the command proceeds. -/
theorem Proceeds.oneEvent {s u t : State} {e : Event} (h : Proceeds u t) (hu : u.trace = s.trace ++ [e])
    (he : e.failed = false) : OneEvent s t :=
  ⟨e, h.trace.trans hu, fun hf => by simp [he] at hf, fun ht => absurd ht h.noTransportError⟩

theorem Action.ProceedsAfter.oneEvent {act : Action} (h : act.ProceedsAfter) (op : Instr) (d : Draw) (s : State) :
    OneEvent s (act.perform op d s) := by
  cases act with
  | rd a k =>
    cases hr : s.sensor.readAnswer a d with
    | none => rw [perform_rd_err _ _ _ hr]; exact oneEvent_err rfl _ s
    | some b => rw [perform_rd_ok _ _ _ hr]; exact (h b _).oneEvent rfl rfl
  | wr a b k =>
    cases hw : s.sensor.writeAnswer d with
    | false => rw [perform_wr_err _ _ _ hw]; exact oneEvent_err rfl _ s
    | true => rw [perform_wr_ok _ _ _ hw]; exact (h _).oneEvent rfl rfl
  | clk k => exact (h _ _).oneEvent rfl rfl
  | pin k => exact (h _ _).oneEvent rfl rfl
  | dly us k => exact (h _).oneEvent rfl rfl

/-! ### The whole command -/

/-- The trace has no failed transaction, or one that is its last event and has ended the command (R176). -/
def FailureIsLast (t : State) : Prop :=
  (¬ EndedOnTransport t ∧ Unfailed t.trace) ∨
  (EndedOnTransport t ∧ ∃ tr e, t.trace = tr ++ [e] ∧ Unfailed tr ∧ e.failed = true)

/-- A command in execution has met no failed transaction. -/
theorem FailureIsLast.of_busy {t : State} (h : FailureIsLast t) (hp : t.phase ≠ .idle) : Unfailed t.trace := by
  obtain ⟨-, hu⟩ | ⟨⟨hidle, -⟩, -⟩ := h
  · exact hu
  · exact absurd hidle hp

theorem OneEvent.failureIsLast {s t : State} (h : OneEvent s t) (hs : Unfailed s.trace) : FailureIsLast t := by
  obtain ⟨e, htr, he⟩ := h
  by_cases ht : EndedOnTransport t
  · exact .inr ⟨ht, s.trace, e, htr, hs, he.2 ht⟩
  · refine .inl ⟨ht, ?_⟩
    rw [htr]
    intro e' hmem
    obtain hmem | hmem := List.mem_append.1 hmem
    · exact hs e' hmem
    · rw [List.mem_singleton.1 hmem]
      exact Bool.eq_false_iff.2 fun hf => ht (he.1 hf)

theorem run_failureIsLast (xs : List Input) {s : State} (h : FailureIsLast s) : FailureIsLast (run xs s) :=
  run_keeps (fun _ _ h => h)
    (fun r d s hp h => ((action_proceeds r s).oneEvent r.op d s).failureIsLast (h.of_busy (by simp [hp]))) xs s h

/-- A command that has been taken and has performed no event. -/
theorem Proceeds.failureIsLast {s t : State} (h : Proceeds (accept s) t) : FailureIsLast t :=
  .inl ⟨h.noTransportError, by rw [h.trace]; exact nofun⟩

theorem exec_failureIsLast {i : Instr} {s t : State} (h : exec i s = .next t) : FailureIsLast t := by
  obtain ⟨-, -, r, -, -, rfl⟩ | ⟨-, -, rfl⟩ | ⟨-, -, rfl⟩ | ⟨-, -, rfl⟩ | ⟨m, -, rfl⟩ := exec_cases h
  · exact run_failureIsLast _ (Proceeds.failureIsLast (s := s) (proceeds_busy rfl rfl))
  · exact Proceeds.failureIsLast (s := s) (proceeds_end _)
  · exact Proceeds.failureIsLast (s := s) (proceeds_end _)
  · exact Proceeds.failureIsLast (s := s) (proceeds_end _)
  · exact Proceeds.failureIsLast (s := s) (proceeds_end _)

/-- Settles O27: a command without a failed transaction, and one that has ended on it. -/
theorem failedTransactionEndsCommand : Obligations.FailedTransactionEndsCommand := by
  intro i s t h
  have hf := exec_failureIsLast h
  refine ⟨?_, hf.of_busy, fun hp => ?_⟩
  · obtain ⟨-, hu⟩ | ⟨-, tr, e, htr, hu, -⟩ := hf
    · exact fun e he => hu e (List.mem_of_mem_dropLast he)
    · rw [htr, List.dropLast_concat]; exact hu
  · obtain ⟨hn, hu⟩ | ⟨⟨-, hcode⟩, tr, e, htr, -, he⟩ := hf
    · refine ⟨fun hcode => absurd ⟨hp, hcode⟩ hn, fun ⟨e, hlast, he⟩ => ?_⟩
      simp [hu e (List.mem_of_getLast? hlast)] at he
    · exact ⟨fun _ => ⟨e, by rw [htr, List.getLast?_concat], he⟩, fun _ => hcode⟩

end Sys2Proof.Machine
end

/-! ## Proofs of the family 70_reset_and_hazards.md: reset -/

section
namespace Sys2Proof.Machine

/-! ### What reset writes -/

/-- A write that reset cuts shows in the sensor alone (R197). -/
theorem cutWrite_eq (s : State) : ∃ m, cutWrite s = { s with sensor := m } := by
  unfold cutWrite
  split
  · exact ⟨s.sensor, rfl⟩
  · split
    · exact ⟨_, rfl⟩
    all_goals exact ⟨s.sensor, rfl⟩

/-- Outside the sensor a reset is `blockReset`, whatever it cuts (R195, R197). -/
theorem takeReset_eq (b : Bool) (s : State) : ∃ m, takeReset b s = blockReset { s with sensor := m } := by
  cases b with
  | false => exact ⟨s.sensor, rfl⟩
  | true =>
    obtain ⟨m, hm⟩ := cutWrite_eq s
    exact ⟨m, congrArg blockReset hm⟩

/-! ### STICKY -/

/-- No code a command ends with clears STICKY (R172). -/
theorem endStatus_keeps_sticky (c : Code) {st : Byte} (h : statusSticky st = true) :
    statusSticky (endStatus c st) = true := by
  rw [endStatus_sticky, h, Bool.true_or]

/-- However far a command has run, STICKY is still set if it was (R24, R172). -/
theorem CommandEffect.keeps_sticky {op : Instr} {s t : State} (h : CommandEffect op s t)
    (hs : statusSticky s.status = true) : statusSticky t.status = true := by
  obtain hrun | ⟨c, he⟩ := h.2
  · obtain ⟨-, -, -, hstart⟩ := startStatus_fields s.status
    obtain ht | ht := hrun.status
    · rw [ht, hs]
    · rw [ht, hstart, hs]
  · rw [he.status]
    exact endStatus_keeps_sticky c hs

theorem run_keeps_sticky (xs : List Input) {s : State} (hs : statusSticky s.status = true) :
    statusSticky (run xs s).status = true :=
  run_keeps (P := fun s => statusSticky s.status = true) (fun _ _ h => h)
    (fun r d s _ h => (perform_effect r d s).keeps_sticky h) xs s hs

/-- Settles O16: the values of `blockReset`, and STICKY over each kind of step that is no reset. -/
theorem resetValuesAndSticky : Obligations.ResetValuesAndSticky := by
  constructor
  · intro s b rest h
    obtain ⟨m, hm⟩ := takeReset_eq b { s with inputs := rest }
    exact ⟨_, (step_reset h).trans (congrArg _ hm), rfl, rfl, rfl, rfl, rfl, rfl, rfl, rfl, rfl, rfl, rfl, rfl, rfl⟩
  · intro s t hr hstep hs
    obtain ⟨b, rest, hin, -⟩ | ⟨-, ⟨-, -, rfl⟩ | ⟨-, ⟨w, ws, i, -, -, he⟩ | ⟨w, ws, e, -, -, rfl⟩ | ⟨-, rfl⟩⟩⟩ :=
      step_cases hstep
    · exact absurd hin (hr b rest)
    · exact run_keeps_sticky _ hs
    · exact (exec_effect he).keeps_sticky hs
    · exact endStatus_keeps_sticky .illegal hs
    · exact hs

/-! ### Reset during a command -/

/-- A command that is still in execution has used up the answers it was given. -/
theorem run_answering_inputs {ds : List Draw} {s : State} {r : Running}
    (h : (run (answering ds) s).phase = .exec r) : (run (answering ds) s).inputs = [] := by
  induction ds generalizing s with
  | nil => rfl
  | cons d ds ih =>
    cases hp : s.phase with
    | idle =>
      rw [run_idle hp] at h
      cases hp.symm.trans h
    | exec q =>
      have hrun : run (answering (d :: ds)) s = run (answering ds) (perform q d s) := run_answer hp d _
      rw [hrun] at h ⊢
      exact ih h

/-- A command that runs up to a reset stands there, with the reset next (R197). -/
theorem resume_stands_at_reset {s : State} {ds : List Draw} {r : Running}
    (h : (resume { s with inputs := answering ds }).phase = .exec r) (b : Bool) (rest : List Input) :
    resume { s with inputs := answering ds ++ .reset b :: rest } =
      { resume { s with inputs := answering ds } with inputs := .reset b :: rest } := by
  have hin : (resume { s with inputs := answering ds }).inputs = [] := run_answering_inputs h
  rw [answersInPartsAreAnswersAtOnce s ds (.reset b :: rest), hin]
  exact run_reset (s := { resume { s with inputs := answering ds } with inputs := .reset b :: rest }) h b rest

/-- A reset that stands next is taken in the next step, whatever PHASE is (R195). -/
theorem step_at_reset (s : State) (b : Bool) (rest : List Input) :
    step { s with inputs := .reset b :: rest } = .next (takeReset b { s with inputs := rest }) :=
  step_reset rfl

/-- A reset that cuts a write which reached the sensor leaves the byte there (R197). -/
theorem takeReset_of_write {s : State} {r : Running} {a : Addr} {v : Byte} {k : State → State}
    (hp : s.phase = .exec r) (ha : action r s = .wr a v k) :
    takeReset true s = blockReset { s with sensor := s.sensor.store a v } :=
  congrArg blockReset (cutWrite_of_write hp ha)

/-- A reset that meets another event cuts no write, whatever its bit says (R198). -/
theorem takeReset_of_noWrite {s : State} {r : Running} (hp : s.phase = .exec r)
    (hw : ∀ a v k, action r s ≠ .wr a v k) (b : Bool) : takeReset b s = blockReset s := by
  rw [takeReset, cutWrite_of_noWrite hp hw, ite_self]

/-- A reset in IDLE cuts nothing (R195). -/
theorem takeReset_idle {s : State} (hp : s.phase = .idle) (b : Bool) : takeReset b s = blockReset s := by
  rw [takeReset, cutWrite_idle hp, ite_self]

/-- Settles O18: the command stands at the reset, and the reset by the event that it meets there. -/
theorem resetActsBetweenEvents : Obligations.ResetActsBetweenEvents := by
  constructor
  · intro s ds b rest r hp
    have hstands := resume_stands_at_reset hp b rest
    generalize resume { s with inputs := answering ds } = t at hp hstands ⊢
    have hact := action_inputs r t rest
    refine ⟨hstands, step_at_reset t false rest, fun a v k ha => ?_, fun hw => ?_⟩
    · exact (step_at_reset t true rest).trans
        (congrArg _ (takeReset_of_write (s := { t with inputs := rest }) hp (hact.trans ha)))
    · exact (step_at_reset t true rest).trans
        (congrArg _ (takeReset_of_noWrite (s := { t with inputs := rest }) hp (hact ▸ hw) true))
  · intro s b rest hp
    exact (step_at_reset s b rest).trans (congrArg _ (takeReset_idle (s := { s with inputs := rest }) hp b))

/-! ### The state after reset -/

/-- Settles O53: the state after reset is a fixed point of `blockReset`, and the free oracle holds no SIM. -/
theorem resetIsLegal : Obligations.ResetIsLegal :=
  blockReset_inv (s := State.reset) rfl

end Sys2Proof.Machine
end
